-- ==== Sys2Proof/Word.lean ====
section
/-! DEFINITION. The widths the spec gives its values (00_scope.md rule R5, 10_state.md rules R14 and R15). -/

namespace Sys2Proof

/-- A KeystreamByte: what one cell of TABLE holds and what a lookup returns (R14, DATA_W = 8). -/
abbrev Byte := BitVec 8

/-- A TableIndex: an integer of [0, 16384) held in exactly 14 bits (R14, R31, IDX_W = 14). -/
abbrev Index := BitVec 14

/-- A 16-bit value: the collaborator's working value `temp`, its key-derived value `k`, and the two factors of rule R15
(R5, WORK_W = 16). -/
abbrev Working := BitVec 16

/-- The width the product of rule R15 is computed in (R5, PROD_W = 32, decision D3). -/
abbrev Product := BitVec 32

end Sys2Proof
end

