-- ==== Sys2Proof/Config.lean ====
section
/-! DEFINITION. The implementation parameters of 00_scope.md rule R5: those the source or the spec fixes are constants;
those fixed when a block is built (PW, INIT_MODE) are the fields of `BlockParams`, which State carries and no step
changes, so that a statement over every state is one over every block that can be built. NREQ is the length of State's
list of requesters; LAT has no counterpart, a model has no time (70_reset_and_hazards.md rule R126). The widths are the
types of Word.lean, and DEPTH is written 16384 where it is used, as the spec writes it. -/

namespace Sys2Proof

/-- DV_CODE: the cause code of DomainViolation (R5, R97, decision D6). -/
abbrev Config.dvCode : Nat := 1

/-- PW of the default block (R5, decision D1). -/
abbrev Config.pwDefault : Nat := 14

/-- PW of the reference block of the checked form (R5, R51, decision D1). -/
abbrev Config.pwReference : Nat := 16

/-- INIT_MODE: how the table comes to hold its values (R5, R21, decision D2). -/
inductive InitMode where
  /-- The table is part of the design, and READY is hardwired to 1 (R79, R116). -/
  | constant
  /-- The table is a memory that CONSTRUCT writes once after each release of reset (R73, R117). -/
  | constructed
  deriving DecidableEq, Repr

/-- What is fixed when a block is built: the width of the operand its port carries, and its initialisation mode (R5). -/
structure BlockParams where
  /-- PW: 14 for a port that offers LOOKUP, 15 or more for one that offers LOOKUPX (R49 to R51). -/
  pw : Nat
  /-- INIT_MODE. -/
  initMode : InitMode
  deriving DecidableEq, Repr

/-- The default block: PW = 14, INIT_MODE = CONSTANT (R5, decisions D1 and D2). -/
def BlockParams.standard : BlockParams := ⟨Config.pwDefault, .constant⟩

/-- The reference block of the checked form: PW = 16 (R51, decision D1). -/
def BlockParams.reference : BlockParams := ⟨Config.pwReference, .constant⟩

end Sys2Proof
end

