-- ==== Sys2Proof/Machine/State.lean ====
section
/-! DEFINITION. The block's state (10_state.md rule R13: TABLE and READY), the agents around it (00_scope.md rule R6),
and what has crossed the interface (R7, 30_encoding.md rule R62); reset (10_state.md rule R29). All plain data. -/

namespace Sys2Proof.Machine

/-- Why the machine stops. Both are safe: no state that meets `State.Inv` stops this way. -/
inductive Fault where
  /-- Raised by the lookups: the read of a cell that holds no value. Rule R122 keeps every read behind READY and rule
  R15 gives every cell a value then, so no run from reset reaches it (10_state.md R29: an unbuilt cell has no value). -/
  | undefinedRead (address : Nat)
  deriving DecidableEq, Repr

/-- What the model gives no meaning. -/
inductive Refusal where
  /-- Raised by exec for an operation that has no meaning yet; no arm uses it. -/
  | notModelled (mnemonic : String)
  /-- Raised by a requester's step: its integer cannot be presented on the block's port without being cut down, which
  40_lookup.md rule R70 forbids the requester to do. Safe: such a program is refused, never given a value (D17). -/
  | notPresentable (v : Int)
  /-- Raised by the service of a request whose word has more bits than the port: no port carries it (R58). Safe: no
  state that meets `State.Inv` holds such a word. -/
  | notAWord (w : Nat)
  deriving DecidableEq, Repr

/-- The cells of TABLE by address, addresses strictly rising, none listed that holds what an unlisted address reads as
(Machine/Ops.lean says what that is, and `Memory.wf` that the form holds). -/
abbrev Memory := List Host.Cell

/-- The outcome of a request (30_encoding.md rule R52). A fault carries the operand and no data (R99, R100). -/
inductive Response where
  /-- `Byte(d)`. -/
  | byte (d : Byte)
  /-- `Fault(DomainViolation, x)`. -/
  | domainViolation (x : Nat)
  deriving DecidableEq, Repr

/-- One entry of the observation of a run: requester, operand, outcome (00_scope.md rule R7). -/
structure Observation where
  requester : Nat
  operand : Nat
  outcome : Response
  deriving DecidableEq, Repr

/-- What a requester asks for, before it is a request word: the source's call on an integer it holds (R60, R70), or one
of the two pseudo-operations (R61). -/
inductive Call where
  /-- `lookup(v)`. -/
  | lookup (v : Int)
  /-- `DECRYPT_BYTE temp`. -/
  | decryptByte (temp : Working)
  /-- `DECRYPT_BYTE_K k`. -/
  | decryptByteK (k : Working)
  deriving DecidableEq, Repr

/-- One requester, a cipher session or thread (00_scope.md rule R6): it issues its calls one at a time, in order, and
waits for each response. -/
structure Requester where
  /-- The calls it has still to make, first one first. -/
  script : List Call
  /-- The request word it has presented and waits for, if any: its one outstanding request. -/
  waiting : Option Nat
  /-- The session has received a DomainViolation: a mark that nothing clears (60_exceptions.md rule R106). -/
  faulted : Bool
  deriving DecidableEq, Repr

/-- The initializer (00_scope.md rule R6), the agent that performs CONSTRUCT. Its loop index is no state of the block
(10_state.md rule R27). -/
inductive Initializer where
  /-- INIT_MODE = CONSTANT: it has no step (R6, R79). -/
  | absent
  /-- INIT_MODE = CONSTRUCTED, reset asserted: CONSTRUCT starts when reset is released (R73). A run that had not published
  when reset was asserted has ended: DESIGN CHOICE, notes/assumptions/24.md. -/
  | inReset
  /-- CONSTRUCT runs; iterations 0 to i - 1 are done (R74). -/
  | building (i : Nat)
  /-- CONSTRUCT has published; it does not run again in this reset epoch (R73, R120). -/
  | done
  deriving DecidableEq, Repr

/-- Who moves in a step. -/
inductive Agent where
  /-- The initializer performs the next part of CONSTRUCT. -/
  | initializer
  /-- Requester r presents its next call, if it waits for none. -/
  | requester (r : Nat)
  /-- The block takes up the outstanding request of requester r. -/
  | service (r : Nat)
  /-- Reset is asserted from outside. -/
  | assertReset
  /-- Reset is released from outside. -/
  | releaseReset
  /-- Nobody moves. -/
  | idle
  deriving DecidableEq, Repr

/-- The whole machine. -/
structure State where
  /-- PW and INIT_MODE of this block, fixed when it was built (R5): no step writes them. -/
  params : BlockParams
  /-- TABLE (R14); read through `State.cell`. -/
  table : Memory
  /-- READY (R20), as stored in INIT_MODE = CONSTRUCTED; read through `State.readReady`, which hardwires it in CONSTANT. -/
  ready : Bool
  /-- The reset input is asserted (R62, R117). -/
  rst : Bool
  /-- The initializer. -/
  initializer : Initializer
  /-- The requesters, numbered from 0; their number is NREQ (R5). -/
  requesters : List Requester
  /-- The requester whose request is being served: the one the response goes to. -/
  serving : Nat
  /-- Who moves in the steps to come, first one first; when it is empty `defaultAgent` says who moves. -/
  schedule : List Agent
  /-- The observation so far (R7). DESIGN CHOICE (notes/assumptions/23.md): R7 gives its triples no order across
  requesters, and this one list holds them in the order in which the block answered, oldest first. -/
  observed : List Observation
  deriving DecidableEq, Repr

/-- A requester that has asked for nothing. -/
def Requester.fresh : Requester := ⟨[], none, false⟩

/-- A block of any parameters, right after reset is released, with one requester that asks for nothing
(10_state.md rule R29): in CONSTANT mode READY is 1 and every cell holds its value (nothing is listed), in CONSTRUCTED
mode READY is 0, no cell holds a value, and CONSTRUCT starts (R117). -/
def State.resetOf (p : BlockParams) : State where
  params := p
  table := []
  ready := match p.initMode with
    | .constant => true
    | .constructed => false
  rst := false
  initializer := match p.initMode with
    | .constant => .absent
    | .constructed => .building 0
  requesters := [Requester.fresh]
  serving := 0
  schedule := []
  observed := []

/-- The default block (PW = 14, INIT_MODE = CONSTANT) right after reset (R29, R116). -/
def State.reset : State := State.resetOf BlockParams.standard

end Sys2Proof.Machine
end

