-- ==== Sys2Proof/Machine/Flags.lean ====
section
/-! DEFINITION. The one status bit, READY (10_state.md rules R20, R25), and the flag a response carries
(30_encoding.md rule R52). The block stores no flag and no condition code (10_state.md rule R24). -/

namespace Sys2Proof.Machine

/-- READY: hardwired to 1 in INIT_MODE = CONSTANT, the stored bit in CONSTRUCTED (R20, R25). -/
def State.readReady (s : State) : Bool :=
  match s.params.initMode with
  | .constant => true
  | .constructed => s.ready

/-- Write READY: only the initializer's last step and reset do (R25); in CONSTANT mode the bit is hardwired and the
write has no effect. -/
def State.writeReady (b : Bool) (s : State) : State :=
  match s.params.initMode with
  | .constant => s
  | .constructed => { s with ready := b }

/-- The flag `err` of a response (R52). -/
def Response.err : Response → Bool
  | .byte _ => false
  | .domainViolation _ => true

/-- What `data` carries: the byte, and nothing when `err` is 1 (R52, R100). -/
def Response.data : Response → Option Byte
  | .byte d => some d
  | .domainViolation _ => none

/-- The cause code of a fault response (R97, R99). -/
def Response.cause : Response → Option Nat
  | .byte _ => none
  | .domainViolation _ => some Config.dvCode

end Sys2Proof.Machine
end

