-- ==== Sys2Proof/Machine/Value.lean ====
section
/-! DEFINITION. The value function VAL (10_state.md rule R15), in the widths the spec computes it in, and the legacy
computation it replaces (40_lookup.md rule R66). -/

namespace Sys2Proof.Machine

/-- `a = (i << 2) | 0b11`, a 16-bit value (R15). The index is widened before the shift (42_arithmetic.md rule R82). -/
def factorA (i : Index) : Working := (i.setWidth 16 <<< 2) ||| 0b11

/-- `b = (i << 2) | 0b10`, a 16-bit value (R15). -/
def factorB (i : Index) : Working := (i.setWidth 16 <<< 2) ||| 0b10

/-- The product of two 16-bit values, in 32 bits unsigned: it never wraps (R15, R83). -/
def mul32 (a b : Working) : Product := a.setWidth 32 * b.setWidth 32

/-- `(product >> 8) & 0xFF`: bits 15:8 of the product, bit 15 being bit 7 of the byte (R15, R35, R84). -/
def bits15to8 (p : Product) : Byte := ((p >>> 8) &&& 0xFF).setWidth 8

/-- `VAL(i)` (R15). -/
def val (i : Index) : Byte := bits15to8 (mul32 (factorA i) (factorB i))

/-- `VAL` at a table address, for an address of the table space. -/
def valAt (a : Nat) : Byte := val (BitVec.ofNat 14 a)

/-- The legacy computation `((temp * (temp ^ 1)) >> 8) & 0xFF` of a working value (R66, R87). -/
def legacyByte (temp : Working) : Byte := bits15to8 (mul32 temp (temp ^^^ 1))

end Sys2Proof.Machine
end

