-- ==== Sys2Proof/Machine/Ops.lean ====
section
/-! DEFINITION. The named operations: the table space (20_memory.md rules R31 to R33), the response to a request
(30_encoding.md rule R52), and the one exception (60_exceptions.md rule R97). -/

namespace Sys2Proof.Machine

/-- What an address that the table does not list reads as. INIT_MODE = CONSTANT: the constant of rule R15, in every cell
of the space, at and through reset (R29, R116). INIT_MODE = CONSTRUCTED: no value, a cell has one only once CONSTRUCT has
written it (R29). Outside the space: no cell (R47). -/
def Memory.unlisted (mode : InitMode) (a : Nat) : Option Byte :=
  match mode with
  | .constant => if a < 16384 then some (valAt a) else none
  | .constructed => none

/-- The listed entry at an address. -/
def Memory.find : Memory → Nat → Option Byte
  | [], _ => none
  | c :: rest, a => if c.1 = a then some c.2 else Memory.find rest a

/-- What address `a` reads as. -/
def Memory.read (mode : InitMode) (m : Memory) (a : Nat) : Option Byte :=
  match m.find a with
  | some d => some d
  | none => Memory.unlisted mode a

/-- List the entry (a, d) at its place, in the stead of one that is there. -/
def Memory.insert : Memory → Nat → Byte → Memory
  | [], a, d => [(a, d)]
  | c :: rest, a, d =>
    if a < c.1 then (a, d) :: c :: rest
    else if a = c.1 then (a, d) :: rest
    else c :: Memory.insert rest a d

/-- Take the entry at `a` off the list. -/
def Memory.erase (m : Memory) (a : Nat) : Memory := m.filter fun c => decide (c.1 ≠ a)

/-- Write one cell, keeping the canonical form. -/
def Memory.write (mode : InitMode) (m : Memory) (a : Nat) (d : Byte) : Memory :=
  if Memory.unlisted mode a = some d then m.erase a else m.insert a d

/-- The canonical form: addresses strictly rising, every one of the table space, no entry equal to what the address
would read as unlisted. -/
abbrev Memory.wf (mode : InitMode) (m : Memory) : Prop :=
  m.Pairwise (fun c d => c.1 < d.1) ∧ ∀ c ∈ m, c.1 < 16384 ∧ Memory.unlisted mode c.1 ≠ some c.2

/-- `TABLE[a]`: the value the cell holds, if it holds one; nothing outside the table space (R14, R29, R47). -/
def State.cell (s : State) (a : Nat) : Option Byte :=
  if a < 16384 then s.table.read s.params.initMode a else none

/-- `MemRead(a, 1)`, defined when READY = 1 and the address is in the space; it changes nothing (R33, R40). A cell is the
only width (R38). -/
def memRead (a : Nat) (s : State) : Option Byte :=
  if s.readReady then s.cell a else none

/-- `MemWrite(a, 1, d)`: used inside CONSTRUCT only (R10, R67). -/
def memWrite (a : Nat) (d : Byte) (s : State) : State :=
  { s with table := s.table.write s.params.initMode a d }

/-- A requester whose request has been answered with a byte: it waits no longer. -/
def Requester.answered (q : Requester) : Requester := { q with waiting := none }

/-- A requester whose request has been answered with a fault: it waits no longer, and its session is marked for good
(R106): no statement claims correct keystream of a marked session (notes/assumptions/10.md). -/
def Requester.failed (q : Requester) : Requester := { q with waiting := none, faulted := true }

/-- Complete the request being served with `Byte(d)` (R52): the response goes to the requester being served. That its
triple goes to the end of one list over all requesters is the model's choice, DESIGN CHOICE (notes/assumptions/23.md):
00_scope.md rule R7 gives the triples of different requesters no order. -/
def respondByte (operand : Nat) (d : Byte) (s : State) : State :=
  { s with
    observed := s.observed ++ [⟨s.serving, operand, .byte d⟩]
    requesters := s.requesters.modify s.serving Requester.answered }

/-- `raise DomainViolation(x)`, the block's only exception (R97): the request being served ends with the fault outcome,
which carries the whole operand and no data (R99, R100); its triple goes where `respondByte` puts one. No cell is read and neither TABLE nor READY changes; nothing is
saved, no mode changes and there is no handler (R105), so there is no return either: the block serves the next request
(R107). -/
def raiseDomainViolation (x : Nat) (s : State) : State :=
  { s with
    observed := s.observed ++ [⟨s.serving, x, .domainViolation x⟩]
    requesters := s.requesters.modify s.serving Requester.failed }

/-- The hold (70_reset_and_hazards.md rule R122): while READY = 0 a request has no step. It is not answered, not faulted
and not dropped: the machine stays as it is, and the request waits. -/
def whenPublished (s : State) (served : Host.Outcome State Fault Refusal) : Host.Outcome State Fault Refusal :=
  if s.readReady then served else .next s

/-- Read one cell and return its byte unchanged (40_lookup.md rules R63 to R65). -/
def readAndRespond (a : Nat) (s : State) : Host.Outcome State Fault Refusal :=
  match memRead a s with
  | some d => .next (respondByte a d s)
  | none => .fault (.undefinedRead a)

end Sys2Proof.Machine
end

