-- ==== Sys2Proof/Machine/Construct.lean ====
section
/-! DEFINITION. CONSTRUCT, the initializer's operation (41_construct.md). The step makes one iteration, or publishes; the
whole of it is also given as one event, which is what a requester sees of it (R77, decision D20). -/

namespace Sys2Proof.Machine

/-- One iteration of the loop of rule R74: `TABLE[i] <- VAL(i)`. -/
def constructIteration (i : Nat) (s : State) : State := memWrite i (valAt i) s

/-- Where the initializer stands. -/
def State.setInitializer (i : Initializer) (s : State) : State := { s with initializer := i }

/-- Publication, CONSTRUCT's last step: `READY <- 1` (R74, R77). -/
def publish (s : State) : State := (s.writeReady true).setInitializer .done

/-- The initializer's next step: iteration i for i in [0, 16384), then publication (R74). Before its start, after its end
and in CONSTANT mode it has none (R6, R73, R79). -/
def initializerStep (s : State) : State :=
  match s.initializer with
  | .building i =>
    if i < 16384 then (constructIteration i s).setInitializer (.building (i + 1)) else publish s
  | .absent => s
  | .inReset => s
  | .done => s

/-- The cells written in the order of a list of addresses, each with its `VAL`. -/
def writeCells (order : List Nat) (s : State) : State := order.foldl (fun t i => constructIteration i t) s

/-- CONSTRUCT as one event: every cell written, then READY set (R77, decision D20). -/
def construct (s : State) : State := publish (writeCells (List.range 16384) s)

end Sys2Proof.Machine
end

