-- ==== Sys2Proof/Machine/Operands.lean ====
section
/-! DEFINITION. Operands: the domain check (40_lookup.md rule R64), the effective address (R65), and how a requester
makes a request word of what it holds (30_encoding.md rules R55, R60, R61; 40_lookup.md rules R66, R70). -/

namespace Sys2Proof.Machine

/-- `x` is in the domain [0, 16384) (R51, R64). The whole operand is compared; it is never reduced (R53). -/
def inDomain (x : Nat) : Bool := decide (x < 16384)

/-- The effective address of LOOKUP: the index itself, unsigned, unscaled (R53, R65). -/
def indexAddress (idx : Index) : Nat := idx.toNat

/-- `temp >> 2 = temp[15:2]`: the index of a 16-bit working value, or of the key-derived value it comes from (R55). -/
def formIndex (temp : Working) : Index := temp.extractLsb' 2 14

/-- The checked conversion into the 14-bit type: an integer outside [0, 16384) is no index, and is never truncated to one
(R70, decision D17). -/
def toIndex (v : Int) : Option Index :=
  if 0 ≤ v ∧ v < 16384 then some (BitVec.ofNat 14 v.toNat) else none

/-- The request word by which an integer is presented unchanged on a port of width `pw`, if there is one (R70): on the
14-bit port an index; on a wider port the number itself, or the two's-complement pattern of a negative one that the
width holds. -/
def toOperand (pw : Nat) (v : Int) : Option Nat :=
  if pw = 14 then (toIndex v).map indexAddress
  else if 15 ≤ pw ∧ -((2 ^ (pw - 1) : Nat) : Int) ≤ v ∧ v < ((2 ^ pw : Nat) : Int) then
    some (v % ((2 ^ pw : Nat) : Int)).toNat
  else none

/-- The integer a call looks up. Each pseudo-operation expands to exactly one lookup, of `temp >> 2` or `k >> 2` (R61,
R66); on a wide port that lookup is a LOOKUPX (R60). -/
def Call.value : Call → Int
  | .lookup v => v
  | .decryptByte temp => ((formIndex temp).toNat : Int)
  | .decryptByteK k => ((formIndex k).toNat : Int)

end Sys2Proof.Machine
end

