-- ==== Sys2Proof/Machine/Lookup.lean ====
section
/-! DEFINITION. The lookup family (40_lookup.md): first the hold, then the domain check, then the read (60_exceptions.md
rules R98, R104). -/

namespace Sys2Proof.Machine

/-- LOOKUP idx (R63). -/
def execLookup (idx : Index) (s : State) : Host.Outcome State Fault Refusal :=
  whenPublished s (readAndRespond (indexAddress idx) s)

/-- LOOKUPX x (R64). -/
def execLookupx (x : Nat) (s : State) : Host.Outcome State Fault Refusal :=
  whenPublished s (if inDomain x then readAndRespond x s else .next (raiseDomainViolation x s))

end Sys2Proof.Machine
end

