-- ==== Sys2Proof/Syntax.lean ====
section
/-! DEFINITION. The operations a request can carry: the two rows of spec/opcode_table.json (30_encoding.md rule R49).
CONSTRUCT has no request word and no row (R59): it is the initializer's, in Machine/Construct.lean. DECRYPT_BYTE and
DECRYPT_BYTE_K are the collaborator's spellings of one lookup (R61): they are the calls of Machine/State.lean. -/

namespace Sys2Proof

/-- One request. The source's `lookup` on a 14-bit port and on a wider one (R49). -/
inductive Instr where
  /-- LOOKUP idx, format I14: the operand is a TableIndex and cannot be out of domain (R50, R63). -/
  | lookup (idx : Index)
  /-- LOOKUPX x, format IX: the operand is a PW-bit unsigned number, checked against 16384 (R51, R64). -/
  | lookupx (x : Nat)
  deriving DecidableEq, Repr

end Sys2Proof
end

