-- ==== Sys2Proof/Machine/Dispatch.lean ====
section
/-! DEFINITION. One arm per operation of spec/opcode_table.json. -/

namespace Sys2Proof.Machine

def exec (i : Instr) (s : State) : Host.Outcome State Fault Refusal :=
  match i with
  | .lookup idx => Sys2Proof.Machine.execLookup idx s
  | .lookupx x => Sys2Proof.Machine.execLookupx x s

end Sys2Proof.Machine
end

