-- ==== Sys2Proof/WellFormed.lean ====
section
/-! DEFINITION. Which requests a port of width `pw` can carry (30_encoding.md rules R49 to R51). -/

namespace Sys2Proof

/-- A block has one value of PW, so it offers LOOKUP (PW = 14) or LOOKUPX (PW of 15 or more), never both (R49); the
operand of LOOKUPX has PW bits (R51). Operands of 16384 and more are requests too: they raise DomainViolation (R56). -/
def Instr.wellFormed (pw : Nat) : Instr → Bool
  | .lookup _ => pw == 14
  | .lookupx x => decide (15 ≤ pw) && decide (x < 2 ^ pw)

end Sys2Proof
end

