-- ==== Sys2Proof/Decode.lean ====
section
/-! DEFINITION. Request words: the decoder of formats I14 and IX (30_encoding.md rules R50, R51, R53), and the encoder.
A request word is the operand itself, PW bits wide; a port carries one operation, so PW alone says which (R49, R58). -/

namespace Sys2Proof

/-- Why a number is no request word. No word of a port is ever rejected: these are numbers that no port can carry. -/
inductive DecodeError where
  /-- PW is 14, or 15 and more (R5): no block has a port of this width. -/
  | portTooNarrow (pw : Nat)
  /-- The number does not fit in PW bits, so it is no word of this port; it is never cut down to one (R53, R70). -/
  | wordTooWide (pw w : Nat)
  deriving DecidableEq, Repr

/-- `v[hi:lo]`, the field from bit `hi` down to bit `lo` (00_scope.md rule R9). -/
def bitField (hi lo v : Nat) : Nat := (v >>> lo) % 2 ^ (hi - lo + 1)

/-- Field `idx` of both formats, bits 13:0 (R50, R51). -/
def fieldIdx (w : Nat) : Nat := bitField 13 0 w

/-- Field `hi` of format IX, bits PW-1:14 (R51). -/
def fieldHi (pw w : Nat) : Nat := bitField (pw - 1) 14 w

/-- The request that the word `w` is on a port of width `pw`. On a wide port the operand is `hi * 16384 + idx`, whole:
a word with `hi` not zero is illegal only in that it raises DomainViolation (R51, R56, R64). -/
def decode (pw w : Nat) : Except DecodeError Instr :=
  if pw < 14 then .error (.portTooNarrow pw)
  else if 2 ^ pw ≤ w then .error (.wordTooWide pw w)
  else if pw = 14 then .ok (.lookup (BitVec.ofNat 14 (fieldIdx w)))
  else .ok (.lookupx (fieldHi pw w * 16384 + fieldIdx w))

/-- The request word of an operation: `idx` in bits 13:0 (R50); `hi` above `idx` (R51). -/
def encode : Instr → Nat
  | .lookup idx => idx.toNat
  | .lookupx x => (x / 16384) <<< 14 ||| x % 16384

/-- The port that carries a word of `nbits` bits: 14 bits or fewer are a word of the 14-bit port (the bits above are
zero), more are a word of a port exactly that wide (R50, R51). DESIGN CHOICE (notes/assumptions/2.md): a word does not
name its port. -/
def portFor (nbits : Nat) : Nat := max 14 nbits

/-- The word of `nbits` bits of `w`, every bit above them zero. DESIGN CHOICE (notes/assumptions/25.md): the load, which
the spec does not have, cuts a number wider than its stated width down to that width. No request is cut: `decode` refuses
such a number, and a requester's call is never truncated (R53, R70). -/
def tableWord (nbits w : Nat) : Nat := w % 2 ^ nbits

/-- What the decoder reads from the word of the low `nbits` bits of `w` (notes/assumptions/25.md), on the port that carries
such words (2.md). -/
def decodeTableWord (nbits w : Nat) : Option Instr :=
  match decode (portFor nbits) (tableWord nbits w) with
  | .ok i => some i
  | .error _ => none

end Sys2Proof
end

