-- ==== Sys2Proof/Machine/Requesters.lean ====
section
/-! DEFINITION. The requesters and the port (00_scope.md rule R6; 30_encoding.md rule R62): presenting a request, taking
one up for service, and who moves when no schedule says so (20_memory.md rule R43: the order is free). -/

namespace Sys2Proof.Machine

/-- Requester r presents its next call, if it waits for none and has one (R6): the integer it holds goes onto the port
unchanged, or is refused (R70). -/
def requesterStep (r : Nat) (s : State) : Host.Outcome State Fault Refusal :=
  match s.requesters[r]? with
  | none => .next s
  | some q =>
    match q.waiting, q.script with
    | none, c :: rest =>
      match toOperand s.params.pw c.value with
      | some w => .next { s with requesters := s.requesters.set r { q with script := rest, waiting := some w } }
      | none => .refused (.notPresentable c.value)
    | _, _ => .next s

/-- What the block finds at the port of a requester. -/
inductive Fetched where
  /-- No request. -/
  | nothing
  /-- The request `i`, and the state in which it is served. -/
  | request (i : Instr) (s : State)
  /-- A number that is no word of this port. -/
  | stop (why : Refusal)

/-- Take up the outstanding request of requester r: its word is decoded for the block's port, and the response will go
to r. The request stays outstanding until it is answered. -/
def fetch (r : Nat) (s : State) : Fetched :=
  match s.requesters[r]? with
  | none => .nothing
  | some q =>
    match q.waiting with
    | none => .nothing
    | some w =>
      match decode s.params.pw w with
      | .ok i => .request i { s with serving := r }
      | .error _ => .stop (.notAWord w)

/-- A requester with an outstanding request. -/
def Requester.isWaiting (q : Requester) : Bool := q.waiting.isSome

/-- A requester with a call still to make. -/
def Requester.hasCalls (q : Requester) : Bool := !q.script.isEmpty

/-- Who moves when the schedule is empty: a running CONSTRUCT first, then the service of the lowest-numbered waiting
requester, then the lowest-numbered requester that has a call to make. DESIGN CHOICE (notes/assumptions/5.md): the spec
leaves the order free (R43, decision D14); a schedule can name any other. -/
def defaultAgent (s : State) : Agent :=
  match s.initializer with
  | .building _ => .initializer
  | _ =>
    match s.requesters.findIdx? Requester.isWaiting with
    | some r => .service r
    | none =>
      match s.requesters.findIdx? Requester.hasCalls with
      | some r => .requester r
      | none => .idle

/-- Who moves now, and the state with that entry taken off the schedule. -/
def pickAgent (s : State) : Agent × State :=
  match s.schedule with
  | agent :: rest => (agent, { s with schedule := rest })
  | [] => (defaultAgent s, s)

/-- The requesters with the word `w` outstanding at requester 0, in place of what it had outstanding, and with a fresh
requester 0 where there was none. DESIGN CHOICE (notes/assumptions/4.md): the spec has no loader. -/
def placeWord (w : Nat) : List Requester → List Requester
  | [] => [{ Requester.fresh with waiting := some w }]
  | q :: rest => { q with waiting := some w } :: rest

end Sys2Proof.Machine
end

