-- ==== Sys2Proof/Machine/ResetLine.lean ====
section
/-! DEFINITION. Reset (70_reset_and_hazards.md rules R116, R117, R120; decision D12). -/

namespace Sys2Proof.Machine

/-- A requester whose outstanding request, if any, a reset has abandoned: it gets no response (R120). What it presents
next is its own affair: its script. -/
def Requester.abandoned (q : Requester) : Requester := { q with waiting := none }

/-- Reset is asserted. Outstanding requests are abandoned (R120). CONSTANT: nothing else changes (R116). CONSTRUCTED:
READY becomes 0, and no cell holds a value any more (R117); a CONSTRUCT that is still running ends there without
publishing. DESIGN CHOICE (notes/assumptions/24.md): no rule says outright that reset ends it. -/
def assertReset (s : State) : State :=
  match s.params.initMode with
  | .constant => { s with rst := true, requesters := s.requesters.map Requester.abandoned }
  | .constructed =>
    { s with
      rst := true, requesters := s.requesters.map Requester.abandoned
      ready := false, table := [], initializer := .inReset }

/-- Reset is released, if it was asserted. CONSTANT: nothing else changes (R116). CONSTRUCTED: CONSTRUCT starts, at
iteration 0 (R73, R117). -/
def releaseReset (s : State) : State :=
  if s.rst then
    match s.params.initMode with
    | .constant => { s with rst := false }
    | .constructed => { s with rst := false, initializer := .building 0 }
  else s

end Sys2Proof.Machine
end

