-- ==== Sys2Proof/Machine/Step.lean ====
section
/-! DEFINITION. One step: the agent whose turn it is moves (00_scope.md rule R6). The block fetches no instructions and
has no program counter (10_state.md rule R23); what stands for a fetch is the service of an outstanding request. -/

namespace Sys2Proof.Machine

/-- One step of the machine. The block has no halt (00_scope.md rule R7): with nothing to do it stays as it is. -/
def step (s : State) : Host.Outcome State Fault Refusal :=
  match pickAgent s with
  | (.service r, t) =>
    match fetch r t with
    | .request i u => exec i u
    | .nothing => .next t
    | .stop why => .refused why
  | (.initializer, t) => .next (initializerStep t)
  | (.requester r, t) => requesterStep r t
  | (.assertReset, t) => .next (assertReset t)
  | (.releaseReset, t) => .next (releaseReset t)
  | (.idle, t) => .next t

/-- `s`, as a block whose port carries words of `nbits` bits (the 14-bit port where `nbits` is less), with the word `w`
presented by requester 0 and its service next: `step` of it runs exactly that request. DESIGN CHOICE
(notes/assumptions/2.md for the port, 4.md for the load, 25.md for the bits of `w` above `nbits`, which are cut): the spec
has no loader, and a word does not name its port. -/
def State.withFetchWord (s : State) (nbits w : Nat) : State :=
  { s with
    params := { s.params with pw := portFor nbits }
    requesters := placeWord (tableWord nbits w) s.requesters
    schedule := .service 0 :: s.schedule }

end Sys2Proof.Machine
end

