-- ==== Sys2Proof/Safety.lean ====
section
/-! DEFINITION. The terms statements use: runs, the response the spec gives an operand, and the invariant of the machine. -/

namespace Sys2Proof.Machine

/-- The state after a step that has one. -/
def nextState? : Host.Outcome State Fault Refusal → Option State
  | .next s => some s
  | .fault _ => none
  | .refused _ => none

/-- `k` steps of the machine, stopping at the first fault or refusal. -/
def runSteps : Nat → State → Host.Outcome State Fault Refusal
  | 0, s => .next s
  | k + 1, s =>
    match step s with
    | .next t => runSteps k t
    | .fault why => .fault why
    | .refused why => .refused why

/-- The reset state of a block, loaded with requesters and a schedule. -/
def State.loaded (p : BlockParams) (requesters : List Requester) (schedule : List Agent) : State :=
  { State.resetOf p with requesters := requesters, schedule := schedule }

/-- The response of a served request: a function of the operand alone (00_scope.md rule R7, 40_lookup.md rules R63, R64). -/
def expectedResponse (x : Nat) : Response :=
  if x < 16384 then .byte (valAt x) else .domainViolation x

/-- The state after the request being served has got the response `r` for the operand `x`: the observation grows by one
entry, at its end (notes/assumptions/23.md), the requester waits no longer, and a fault marks its session (R7, R52, R106).
Nothing else differs. -/
def State.afterResponse (s : State) (x : Nat) (r : Response) : State :=
  { s with
    observed := s.observed ++ [⟨s.serving, x, r⟩]
    requesters := s.requesters.modify s.serving fun q => { q with waiting := none, faulted := q.faulted || r.err } }

/-- The value invariant (10_state.md rule R15): whenever READY = 1, every cell holds its `VAL`. -/
def State.ValueInvariant (s : State) : Prop :=
  s.readReady = true → ∀ i : Index, s.cell i.toNat = some (val i)

/-- Where TABLE, READY, the reset input and the initializer can stand together (10_state.md rules R20, R29;
41_construct.md rules R73 to R77; 70_reset_and_hazards.md rules R116, R117). -/
def State.Phase (s : State) : Prop :=
  match s.params.initMode, s.initializer with
  | .constant, .absent => s.table = [] ∧ s.ready = true
  | .constant, _ => False
  | .constructed, .absent => False
  | .constructed, .inReset => s.table = [] ∧ s.ready = false ∧ s.rst = true
  | .constructed, .building i =>
    i ≤ 16384 ∧ s.ready = false ∧ s.rst = false ∧
      ∀ a, a < 16384 → s.cell a = if a < i then some (valAt a) else none
  | .constructed, .done =>
    s.ready = true ∧ s.rst = false ∧ ∀ a, a < 16384 → s.cell a = some (valAt a)

/-- The invariant of the machine: what holds after reset and is kept by every step. -/
structure State.Inv (s : State) : Prop where
  /-- PW is 14, or 15 and more (R5). -/
  port : 14 ≤ s.params.pw
  /-- TABLE is in canonical form. -/
  canonical : Memory.wf s.params.initMode s.table
  /-- TABLE, READY, reset and the initializer agree. -/
  phase : s.Phase
  /-- An outstanding request is a word of the port (R50, R51). -/
  words : ∀ q ∈ s.requesters, ∀ w, q.waiting = some w → w < 2 ^ s.params.pw
  /-- Every response so far is the one its operand has (R7). -/
  responses : ∀ o ∈ s.observed, o.outcome = expectedResponse o.operand
  /-- The session of every fault response is marked (R106). -/
  marks : ∀ o ∈ s.observed, o.outcome.err = true → ∃ q, s.requesters[o.requester]? = some q ∧ q.faulted = true

/-- Two machines that a requester cannot tell apart: the same port and the same interface, both published; how each came
by its table is free (10_state.md rules R21, R27). -/
structure State.SameInterface (s t : State) : Prop where
  left : s.Inv
  right : t.Inv
  readyLeft : s.readReady = true
  readyRight : t.readReady = true
  pw : t.params.pw = s.params.pw
  requesters : t.requesters = s.requesters
  serving : t.serving = s.serving
  schedule : t.schedule = s.schedule
  observed : t.observed = s.observed

end Sys2Proof.Machine
end

