-- ==== Sys2Proof/Certificates/Slice0/Obligations.lean ====
section
/-! DEFINITION. The statements for the provers. Each docstring names the rule of spec/ it formalises, or says whose
choice it rests on. -/

open Sys2Proof Sys2Proof.Machine

/-! ### Encoding -/

/-- Every well-formed request, with every operand its port can carry, decodes from its own word (formats I14 and IX). -/
def Obligations.DecodeOfEncodeIsTheRequest : Prop :=
  ∀ (pw : Nat) (i : Instr), i.wellFormed pw = true → decode pw (encode i) = .ok i

/-- A word that decodes is the word of the request it decodes to, and that request is one the port carries. -/
def Obligations.EncodeOfDecodeIsTheWord : Prop :=
  ∀ (pw w : Nat) (i : Instr), decode pw w = .ok i → encode i = w ∧ i.wellFormed pw = true

/-- No word of a port is rejected, and what is no word of a port is rejected, never cut down to one: the word is the
operand (R50, R51, R57, R58). -/
def Obligations.EveryWordOfAPortIsOneRequest : Prop :=
  ∀ pw w : Nat,
    (pw = 14 → w < 2 ^ 14 → decode pw w = .ok (.lookup (BitVec.ofNat 14 w))) ∧
    (15 ≤ pw → w < 2 ^ pw → decode pw w = .ok (.lookupx w)) ∧
    (pw < 14 → decode pw w = .error (.portTooNarrow pw)) ∧
    (14 ≤ pw → 2 ^ pw ≤ w → decode pw w = .error (.wordTooWide pw w))

/-- Words written out in 95_test_vectors.md, programs P1 to P3, decode to the requests they stand for. -/
def Obligations.SampleWordsDecode : Prop :=
  decodeTableWord 14 0b00000000111111 = some (.lookup 63) ∧
  decodeTableWord 14 0b10000000000000 = some (.lookup 8192) ∧
  decodeTableWord 14 0b01111000100100 = some (.lookup 7716) ∧
  decodeTableWord 14 0b11111111111111 = some (.lookup 16383) ∧
  decodeTableWord 16 0b0000000000111111 = some (.lookupx 0x003F) ∧
  decodeTableWord 16 0b0100000000111111 = some (.lookupx 0x403F) ∧
  decodeTableWord 16 0b1111111111111111 = some (.lookupx 0xFFFF)

/-- R56: on the 14-bit port every word is answered with a byte; on a wider one a word raises DomainViolation, with no
data, exactly when `hi` is not zero, that is when it is 16384 or more: for PW = 16, 49152 words. The source's two cases,
16384 and -1, are such words of every wide port, and no word of the 14-bit port. -/
def Obligations.IllegalWordsAreExactlyThoseAboveTheDomain : Prop :=
  (∀ (s : State) (w : Nat), w < 2 ^ 14 → s.ValueInvariant → s.readReady = true →
    ∃ i, decode 14 w = .ok i ∧ ∃ d, exec i s = .next (s.afterResponse w (.byte d))) ∧
  (∀ (s : State) (pw w : Nat), 15 ≤ pw → w < 2 ^ pw → s.ValueInvariant → s.readReady = true →
    ∃ i, decode pw w = .ok i ∧
      (16384 ≤ w ↔ fieldHi pw w ≠ 0) ∧
      (fieldHi pw w ≠ 0 → exec i s = .next (s.afterResponse w (.domainViolation w))) ∧
      (fieldHi pw w = 0 → ∃ d, exec i s = .next (s.afterResponse w (.byte d)))) ∧
  ((Finset.range 65536).filter fun w => fieldHi 16 w ≠ 0).card = 49152 ∧
  (∀ pw : Nat, 15 ≤ pw →
    fieldHi pw 16384 = 1 ∧ fieldIdx 16384 = 0 ∧ toOperand pw 16384 = some 16384 ∧
    toOperand pw (-1) = some (2 ^ pw - 1) ∧ 32767 ≤ 2 ^ pw - 1) ∧
  toOperand 14 16384 = none ∧ toOperand 14 (-1) = none

/-! ### A step runs the request -/

/-- A step that serves a requester runs exactly the request its outstanding word decodes to, with the response bound for
that requester; so does a step with an empty schedule, for the lowest-numbered waiting requester, unless CONSTRUCT is
running (that order is the model's choice, notes/assumptions/5.md). -/
def Obligations.StepRunsTheOutstandingRequest : Prop :=
  ∀ (s : State) (r : Nat) (q : Requester) (w : Nat) (i : Instr),
    s.requesters[r]? = some q → q.waiting = some w → decode s.params.pw w = .ok i →
    (∀ rest, s.schedule = .service r :: rest → step s = exec i { s with schedule := rest, serving := r }) ∧
    (s.schedule = [] → (∀ k, s.initializer ≠ .building k) →
      (∀ j p, j < r → s.requesters[j]? = some p → p.waiting = none) →
      step s = exec i { s with serving := r })

/-- The request word that `withFetchWord` places is the one the very next step runs, for requester 0. The model's choices,
not the spec's: that the word's width chooses the port, 14 bits or the width where it is more (notes/assumptions/2.md),
that placing the word stands for the load of a program (notes/assumptions/4.md), and that the load cuts a number wider than
`nbits` bits to those bits (notes/assumptions/25.md). -/
def Obligations.PlacedWordIsRunByTheNextStep : Prop :=
  ∀ (s : State) (nbits w : Nat) (i : Instr), decodeTableWord nbits w = some i →
    ∃ t : State, step (s.withFetchWord nbits w) = exec i t ∧
      t.params = ⟨max 14 nbits, s.params.initMode⟩ ∧ t.serving = 0 ∧ t.schedule = s.schedule ∧
      t.requesters = placeWord (tableWord nbits w) s.requesters ∧
      t.table = s.table ∧ t.ready = s.ready ∧ t.rst = s.rst ∧ t.initializer = s.initializer ∧ t.observed = s.observed

/-! ### The lookups -/

/-- R63, LOOKUP: held while READY = 0; else it answers `VAL(idx)`, writes nothing and cannot fault; the formula, the
corner cases and the worked example of the rule. -/
def Obligations.LookupAnswersValOfItsIndex : Prop :=
  (∀ (idx : Index) (s : State), s.readReady = false → exec (.lookup idx) s = .next s) ∧
  (∀ (idx : Index) (s : State), s.ValueInvariant → s.readReady = true →
    exec (.lookup idx) s = .next (s.afterResponse idx.toNat (.byte (val idx)))) ∧
  (∀ idx : Index, (val idx).toNat =
    (((idx.toNat <<< 2 ||| 3) * (idx.toNat <<< 2 ||| 2)) >>> 8) &&& 0xFF) ∧
  val 0 = 0x00 ∧ val 16383 = 0x00 ∧ val 3 = 0x00 ∧ val 4 = 0x01 ∧ val 7 = 0x03

/-- R64, LOOKUPX: held while READY = 0; else DomainViolation(x), exactly when x is 16384 or more, and `TABLE[x]` below;
it agrees with LOOKUP in the domain; after a fault the next request is served normally. -/
def Obligations.LookupxChecksItsOperandThenReads : Prop :=
  (∀ (x : Nat) (s : State), s.readReady = false → exec (.lookupx x) s = .next s) ∧
  (∀ (x : Nat) (s : State), 16384 ≤ x → s.readReady = true →
    exec (.lookupx x) s = .next (s.afterResponse x (.domainViolation x))) ∧
  (∀ (x : Nat) (s : State), x < 16384 → s.ValueInvariant → s.readReady = true →
    exec (.lookupx x) s = .next (s.afterResponse x (.byte (valAt x)))) ∧
  (∀ (x : Nat) (s : State), x < 16384 → exec (.lookupx x) s = exec (.lookup (BitVec.ofNat 14 x)) s) ∧
  (∀ (x y : Nat) (s : State), 16384 ≤ x → y < 16384 → s.ValueInvariant → s.readReady = true →
    exec (.lookupx y) (s.afterResponse x (.domainViolation x)) =
      .next ((s.afterResponse x (.domainViolation x)).afterResponse y (.byte (valAt y)))) ∧
  valAt 7 = 0x03 ∧ valAt 16383 = 0x00

/-- R67 and the frame of LOOKUP and LOOKUPX: whatever they answer, TABLE, READY and everything else of the block stay,
every cell reads as before, the observation keeps what it had, every other requester stays, and of the requester served
only the outstanding request and, on a fault, the mark of its session change. Of all steps, only the initializer's and
the assertion of reset can change what a cell holds. -/
def Obligations.NoRequestWritesTheBlock : Prop :=
  (∀ (i : Instr) (s t : State), exec i s = .next t →
    t.params = s.params ∧ t.table = s.table ∧ t.ready = s.ready ∧ t.readReady = s.readReady ∧ t.rst = s.rst ∧
    t.initializer = s.initializer ∧ t.serving = s.serving ∧ t.schedule = s.schedule ∧
    (∀ a, t.cell a = s.cell a) ∧
    (t.observed = s.observed ∨ ∃ o, t.observed = s.observed ++ [o] ∧ o.requester = s.serving) ∧
    (∀ r, r ≠ s.serving → t.requesters[r]? = s.requesters[r]?) ∧
    (∀ q, s.requesters[s.serving]? = some q → ∃ p, t.requesters[s.serving]? = some p ∧
      p.script = q.script ∧ (p.faulted = q.faulted ∨ ∃ x, i = .lookupx x ∧ 16384 ≤ x))) ∧
  (∀ (s t : State) (a : Nat), step s = .next t → t.cell a ≠ s.cell a →
    (pickAgent s).1 = .initializer ∨ (pickAgent s).1 = .assertReset)

/-- R97, R100: DomainViolation is the outcome of a served request exactly when it is a LOOKUPX of 16384 or more; the
outcome carries the operand and no data, with cause code 1; no such request is answered with any byte, and neither TABLE
nor READY changes; CONSTRUCT gives no response, so it cannot raise it. -/
def Obligations.DomainViolationExactlyOutOfDomain : Prop :=
  (∀ (x : Nat) (s : State), 16384 ≤ x → s.readReady = true → ∃ t, exec (.lookupx x) s = .next t) ∧
  (∀ (i : Instr) (s t : State), s.readReady = true → exec i s = .next t →
    ∃ o, t.observed = s.observed ++ [o] ∧ o.requester = s.serving ∧
      (o.outcome.err = true ↔ ∃ x, i = .lookupx x ∧ 16384 ≤ x) ∧
      (∀ x, i = .lookupx x → 16384 ≤ x →
        o.operand = x ∧ o.outcome = .domainViolation x ∧ o.outcome.data = none ∧ o.outcome.cause = some 1 ∧
        (∀ d, o.outcome ≠ .byte d) ∧ t.table = s.table ∧ t.ready = s.ready)) ∧
  (∀ s : State, (initializerStep s).observed = s.observed)

/-- R107: a fault leaves the block as it was. After it every request, the faulting one again too, gets the response it
would have got before, from whichever requester it comes. -/
def Obligations.BlockServesNormallyAfterAFault : Prop :=
  ∀ (x : Nat) (s t : State), 16384 ≤ x → s.readReady = true → exec (.lookupx x) s = .next t →
    t.table = s.table ∧ t.readReady = s.readReady ∧
    (∀ r, exec (.lookupx x) { t with serving := r } =
      .next ({ t with serving := r }.afterResponse x (.domainViolation x))) ∧
    (∀ (i : Instr) (r y : Nat) (resp : Response),
      exec i { s with serving := r } = .next ({ s with serving := r }.afterResponse y resp) →
      exec i { t with serving := r } = .next ({ t with serving := r }.afterResponse y resp))

/-- R33, the read primitive: defined when READY = 1 and the address is one of the space, and then it is `VAL`. -/
def Obligations.ReadIsDefinedOnlyBehindReady : Prop :=
  ∀ (s : State) (a : Nat), s.ValueInvariant →
    memRead a s = if s.readReady = true ∧ a < 16384 then some (valAt a) else none

/-- R52: the fields of a response. -/
def Obligations.ResponseFields : Prop :=
  (∀ d : Byte, (Response.byte d).err = false ∧ (Response.byte d).data = some d ∧ (Response.byte d).cause = none) ∧
  (∀ x : Nat, (Response.domainViolation x).err = true ∧ (Response.domainViolation x).data = none ∧
    (Response.domainViolation x).cause = some 1)

/-! ### Publication -/

/-- R122: while READY = 0 a request is neither answered, nor faulted, nor dropped: its step leaves everything but the
schedule and the requester being served; a running CONSTRUCT, given its steps, comes to publish, with the requests still
waiting; then the request is served. In CONSTANT mode READY is always 1. The model's choice: one iteration a step, on
which the count of 16385 - n turns in the third clause rests (notes/assumptions/6.md); R125 leaves the time open. -/
def Obligations.RequestsAreHeldUntilPublication : Prop :=
  (∀ (s : State) (i : Instr), s.readReady = false → exec i s = .next s) ∧
  (∀ (s : State) (r : Nat) (rest : List Agent), s.Inv → s.readReady = false → s.schedule = .service r :: rest →
    ∃ k, step s = .next { s with schedule := rest, serving := k }) ∧
  (∀ (s : State) (n : Nat), s.Inv → s.initializer = .building n →
    s.schedule.length = 16385 - n → (∀ a ∈ s.schedule, a = .initializer) →
    ∃ t, runSteps (16385 - n) s = .next t ∧ t.readReady = true ∧ t.requesters = s.requesters ∧
      t.observed = s.observed) ∧
  (∀ (s : State) (r : Nat) (rest : List Agent) (q : Requester) (w : Nat), s.Inv → s.readReady = true →
    s.schedule = .service r :: rest → s.requesters[r]? = some q → q.waiting = some w →
    step s = .next ({ s with schedule := rest, serving := r }.afterResponse w (expectedResponse w))) ∧
  (∀ s : State, s.params.initMode = .constant → s.readReady = true)

/-- R42, R77: a step that gives a response is one that starts from a published table, every cell at its value. -/
def Obligations.ResponsesComeOnlyFromAPublishedTable : Prop :=
  ∀ s t : State, s.Inv → step s = .next t → t.observed ≠ s.observed →
    s.readReady = true ∧ ∀ a, a < 16384 → s.cell a = some (valAt a)

/-- R18: once READY = 1 no step changes a cell or READY, but the assertion of reset in CONSTRUCTED mode, which ends the
reset epoch; and the initializer, the only writer of cells, has no step while READY = 1. -/
def Obligations.PublishedTableNeverChanges : Prop :=
  ∀ s t : State, s.Inv → s.readReady = true → step s = .next t →
    initializerStep s = s ∧
    (((∀ a, t.cell a = s.cell a) ∧ t.readReady = true) ∨
      ((pickAgent s).1 = .assertReset ∧ s.params.initMode = .constructed))

/-! ### CONSTRUCT -/

/-- The algorithm of R74, one step of the initializer at a time: iteration i writes `TABLE[i] <- VAL(i)` and no other cell,
for i in [0, 16384); after the last one it sets READY and writes no cell; nothing else of the machine changes. That a step
is one iteration and that the iterations ascend is the model's choice (notes/assumptions/6.md). -/
def Obligations.ConstructWritesEachCellThenPublishes : Prop :=
  ∀ (s : State) (n : Nat), s.params.initMode = .constructed → s.initializer = .building n → s.ready = false →
    (n < 16384 →
      (initializerStep s).cell n = some (valAt n) ∧ (∀ a, a ≠ n → (initializerStep s).cell a = s.cell a) ∧
      (initializerStep s).readReady = false ∧ (initializerStep s).initializer = .building (n + 1)) ∧
    (n = 16384 →
      (initializerStep s).table = s.table ∧ (initializerStep s).readReady = true ∧
      (initializerStep s).initializer = .done) ∧
    (initializerStep s).params = s.params ∧ (initializerStep s).rst = s.rst ∧
    (initializerStep s).requesters = s.requesters ∧ (initializerStep s).observed = s.observed ∧
    (initializerStep s).schedule = s.schedule ∧ (initializerStep s).serving = s.serving

/-- After R74, R76 and R77: from the release of reset in CONSTRUCTED mode the initializer, given its steps, always performs
16384 iterations and then publishes. After k of them exactly the cells below k hold a value, their `VAL`, and READY is
still 0; the state that publication gives is the one that CONSTRUCT taken as a single event gives: READY = 1 and every
cell at its value. That a step is one iteration and that the iterations ascend is the model's choice
(notes/assumptions/6.md); that an unbuilt cell holds no value is its reading of R29 (notes/assumptions/7.md). -/
def Obligations.ConstructCompletesFromReset : Prop :=
  ∀ (p : BlockParams) (turns : List Agent), p.initMode = .constructed →
    turns.length = 16385 → (∀ a ∈ turns, a = .initializer) →
    (∀ k, k ≤ 16384 → ∃ t, runSteps k (State.loaded p [Requester.fresh] turns) = .next t ∧
      t.readReady = false ∧ t.initializer = .building k ∧
      ∀ a, t.cell a = if a < k then some (valAt a) else none) ∧
    runSteps 16385 (State.loaded p [Requester.fresh] turns) = .next (construct (State.resetOf p)) ∧
    (construct (State.resetOf p)).readReady = true ∧
    ∀ a, a < 16384 → (construct (State.resetOf p)).cell a = some (valAt a)

/-- R78: whatever the order in which the cells are written, the state after publication is the same. -/
def Obligations.ConstructionOrderIsUnobservable : Prop :=
  ∀ (s : State) (order : List Nat), Memory.wf s.params.initMode s.table → order.Perm (List.range 16384) →
    publish (writeCells order s) = construct s

/-- R19, R76: two constructions, whatever the tables they start from, give the same table. -/
def Obligations.TwoConstructionsAgree : Prop :=
  ∀ s t : State, s.params.initMode = t.params.initMode →
    Memory.wf s.params.initMode s.table → Memory.wf t.params.initMode t.table →
    (construct s).table = (construct t).table

/-! ### Reset -/

/-- After R29: TABLE and READY after reset, in both modes; in CONSTRUCTED mode no cell holds a value, and after CONSTRUCT
every cell holds its own and READY is 1. The reset state of the default block is that of PW = 14, INIT_MODE = CONSTANT.
The model's reading and choice: a cell whose content R29 leaves unspecified holds no value (notes/assumptions/7.md), and
the one reset state is that of the block with R5's default parameters (notes/assumptions/1.md). -/
def Obligations.ResetGivesTheStatedValues : Prop :=
  State.reset = State.resetOf ⟨14, .constant⟩ ∧
  (∀ p : BlockParams, p.initMode = .constant →
    (State.resetOf p).readReady = true ∧ ∀ a, a < 16384 → (State.resetOf p).cell a = some (valAt a)) ∧
  (∀ p : BlockParams, p.initMode = .constructed →
    (State.resetOf p).readReady = false ∧ (∀ a, (State.resetOf p).cell a = none) ∧
    (construct (State.resetOf p)).readReady = true ∧
    ∀ a, a < 16384 → (construct (State.resetOf p)).cell a = some (valAt a))

/-- R116: in CONSTANT mode neither edge of reset changes TABLE or READY: every cell holds its value and READY is 1
before and after. (What it does to outstanding requests: AssertionOfResetAbandonsRequests.) -/
def Obligations.ResetChangesNothingInConstantMode : Prop :=
  ∀ (s t : State) (rest : List Agent), s.Inv → s.params.initMode = .constant →
    (s.schedule = .assertReset :: rest ∨ s.schedule = .releaseReset :: rest) → step s = .next t →
    (∀ a, a < 16384 → s.cell a = some (valAt a) ∧ t.cell a = some (valAt a)) ∧
    s.readReady = true ∧ t.readReady = true

/-- In both modes the assertion of reset abandons every outstanding request without a response, and takes from the
requesters nothing else; the release touches neither requesters nor observation. The model's reading of R120 and D12
(notes/assumptions/11.md, and 10.md for the mark that stays). -/
def Obligations.AssertionOfResetAbandonsRequests : Prop :=
  ∀ (s : State) (rest : List Agent),
    (s.schedule = .assertReset :: rest → ∃ t, step s = .next t ∧ t.rst = true ∧
      t.requesters = s.requesters.map (fun q => { q with waiting := none }) ∧ t.observed = s.observed ∧
      t.params = s.params ∧ t.serving = s.serving ∧ t.schedule = rest) ∧
    (s.schedule = .releaseReset :: rest → ∃ t, step s = .next t ∧ t.rst = false ∧
      t.requesters = s.requesters ∧ t.observed = s.observed ∧
      t.params = s.params ∧ t.serving = s.serving ∧ t.schedule = rest)

/-- After R117, with R29, R120 and R122: in CONSTRUCTED mode the assertion of reset clears READY, leaves no cell with a
value and abandons every outstanding request without a response; from there on, whoever moves, requesters and services
too, no response is given in a run whose states all have READY = 0; the release starts CONSTRUCT, which writes all cells
and then sets READY. The model's readings and choices: an unbuilt cell holds no value (notes/assumptions/7.md), the
abandoned requests (11.md), a CONSTRUCT still running when reset is asserted ends there (24.md), and one iteration a
step, so that READY is 0 for 16384 turns and 1 after 16385 (6.md). -/
def Obligations.ResetRebuildsTheTableInConstructedMode : Prop :=
  ∀ (s : State) (turns : List Agent), s.Inv → s.params.initMode = .constructed →
    s.schedule = .assertReset :: .releaseReset :: turns →
    turns.length = 16385 → (∀ a ∈ turns, a = .initializer) →
    ∃ t u v : State,
      step s = .next t ∧ t.readReady = false ∧ (∀ a, t.cell a = none) ∧
        (∀ q ∈ t.requesters, q.waiting = none) ∧ t.observed = s.observed ∧ t.rst = true ∧
      (∀ (moves : List Agent) (k : Nat) (v' : State), runSteps k { t with schedule := moves } = .next v' →
        (∀ j w, j < k → runSteps j { t with schedule := moves } = .next w → w.readReady = false) →
        v'.observed = s.observed) ∧
      step t = .next u ∧ u.readReady = false ∧ u.initializer = .building 0 ∧ u.rst = false ∧
        u.observed = s.observed ∧
      (∀ k v', k ≤ 16384 → runSteps k u = .next v' → v'.readReady = false ∧ v'.observed = s.observed) ∧
      runSteps 16385 u = .next v ∧ v.readReady = true ∧ (∀ a, a < 16384 → v.cell a = some (valAt a)) ∧
        v.observed = s.observed

/-! ### The machine as a whole -/

/-- The invariant holds after reset of every block. -/
def Obligations.InvariantHoldsAfterReset : Prop :=
  State.reset.Inv ∧ ∀ p : BlockParams, 14 ≤ p.pw → (State.resetOf p).Inv

/-- Every step keeps the invariant: the table in canonical form, READY and the table in agreement, every request a word
of the port, every response the one its operand has, every faulting session marked. -/
def Obligations.EveryStepKeepsTheInvariant : Prop :=
  ∀ s t : State, s.Inv → step s = .next t → t.Inv

/-- R15: in every state that meets the invariant the value invariant holds; `VAL(i)` is bits 15:8 of the exact product
`(4i + 3) * (4i + 2)`; the worked example. -/
def Obligations.EveryCellHoldsItsValueOncePublished : Prop :=
  (∀ s : State, s.Inv → s.ValueInvariant) ∧
  (∀ i : Index,
    (factorA i).toNat = i.toNat <<< 2 ||| 0b11 ∧ (factorB i).toNat = i.toNat <<< 2 ||| 0b10 ∧
    (mul32 (factorA i) (factorB i)).toNat = (factorA i).toNat * (factorB i).toNat ∧
    (val i).toNat = ((factorA i).toNat * (factorB i).toNat) >>> 8 &&& 0xFF) ∧
  (factorA 7).toNat = 31 ∧ (factorB 7).toNat = 30 ∧ (mul32 (factorA 7) (factorB 7)).toNat = 930 ∧ val 7 = 0x03

/-- After R7, R41, R64 and R97: whatever the requesters, the schedule, the initialisation mode and the resets on the way, every response of
every run is the one its operand has: `VAL` of it in the domain, DomainViolation out of it. -/
def Obligations.EveryResponseIsAFunctionOfItsOperand : Prop :=
  ∀ (p : BlockParams) (requesters : List Requester) (schedule : List Agent) (k : Nat) (t : State),
    14 ≤ p.pw → (∀ q ∈ requesters, q.waiting = none) →
    runSteps k (State.loaded p requesters schedule) = .next t →
    ∀ o ∈ t.observed,
      (o.operand < 16384 → o.outcome = .byte (valAt o.operand)) ∧
      (16384 ≤ o.operand → o.outcome = .domainViolation o.operand)

/-- R101, R75, R7: the machine never ends and never faults. From a state that meets the invariant a step has a next
state, unless a requester's next call cannot be presented on its port. -/
def Obligations.StepStopsOnlyAtAnUnpresentableCall : Prop :=
  ∀ s : State, s.Inv →
    (∃ t, step s = .next t) ∨
    (∃ r q c rest, (pickAgent s).1 = .requester r ∧ s.requesters[r]? = some q ∧ q.waiting = none ∧
      q.script = c :: rest ∧ toOperand s.params.pw c.value = none ∧ step s = .refused (.notPresentable c.value))

/-- R106: the mark of a session that received a DomainViolation is never cleared, not by reset either (that a reset does
not clear it is the model's reading, notes/assumptions/10.md). -/
def Obligations.FaultMarkIsNeverCleared : Prop :=
  ∀ (s t : State) (r : Nat) (q : Requester), step s = .next t → s.requesters[r]? = some q → q.faulted = true →
    ∃ p, t.requesters[r]? = some p ∧ p.faulted = true

/-- After R106, decision D8: what can be claimed of a session's keystream is claimed of a session that is not marked. At
the end of every run, every response such a session has received is `VAL` of an operand of the domain, hence the legacy
byte of every key-derived value with that index; of a marked session nothing of the kind is said. -/
def Obligations.UnmarkedSessionsReceivedOnlyKeystream : Prop :=
  ∀ (p : BlockParams) (requesters : List Requester) (schedule : List Agent) (k : Nat) (t : State) (r : Nat)
    (q : Requester),
    14 ≤ p.pw → (∀ q ∈ requesters, q.waiting = none) → runSteps k (State.loaded p requesters schedule) = .next t →
    t.requesters[r]? = some q → q.faulted = false →
    ∀ o ∈ t.observed, o.requester = r →
      o.operand < 16384 ∧ o.outcome = .byte (valAt o.operand) ∧
      ∀ v : Working, (formIndex v).toNat = o.operand → o.outcome = .byte (legacyByte (v ||| 2))

/-- R21, R27: two published machines with the same interface, in whichever modes they were initialised, give a requester
the same observation over every run without a reset. -/
def Obligations.InitialisationModesAreIndistinguishable : Prop :=
  ∀ (k : Nat) (s t s' : State), s.SameInterface t → Agent.assertReset ∉ s.schedule → runSteps k s = .next s' →
    ∃ t', runSteps k t = .next t' ∧ t'.observed = s'.observed ∧ t'.requesters = s'.requesters

/-- After R43, R104 and R7: the requests of two requesters do not interact: served in either order each gets its own
response, in or out of the domain, every requester has the same observation of its own, and the requesters, TABLE and
READY end the same. The one list over all requesters, whose order is that of the services, is the model's choice
(notes/assumptions/23.md). -/
def Obligations.RequestersDoNotInteract : Prop :=
  ∀ (s : State) (r₁ r₂ : Nat) (q₁ q₂ : Requester) (w₁ w₂ : Nat), s.Inv → s.readReady = true → r₁ ≠ r₂ →
    s.requesters[r₁]? = some q₁ → q₁.waiting = some w₁ → s.requesters[r₂]? = some q₂ → q₂.waiting = some w₂ →
    ∃ t u : State,
      runSteps 2 { s with schedule := [.service r₁, .service r₂] } = .next t ∧
      runSteps 2 { s with schedule := [.service r₂, .service r₁] } = .next u ∧
      t.observed = s.observed ++ [⟨r₁, w₁, expectedResponse w₁⟩, ⟨r₂, w₂, expectedResponse w₂⟩] ∧
      u.observed = s.observed ++ [⟨r₂, w₂, expectedResponse w₂⟩, ⟨r₁, w₁, expectedResponse w₁⟩] ∧
      (∀ r, t.observed.filter (fun o => o.requester == r) = u.observed.filter (fun o => o.requester == r)) ∧
      t.requesters = u.requesters ∧ t.table = u.table ∧ t.readReady = u.readReady

/-- R126, R122: a request that waits while CONSTRUCT runs is answered by the step after publication, when nothing else
is scheduled and no lower-numbered requester waits. The model's choices: that order (notes/assumptions/5.md), and one
iteration a step, on which the count of steps rests (notes/assumptions/6.md). -/
def Obligations.HeldRequestIsAnsweredAfterPublication : Prop :=
  ∀ (s : State) (n r : Nat) (q : Requester) (w : Nat), s.Inv → s.initializer = .building n → s.schedule = [] →
    s.requesters[r]? = some q → q.waiting = some w →
    (∀ j p, j < r → s.requesters[j]? = some p → p.waiting = none) →
    ∃ t, runSteps (16386 - n) s = .next t ∧ t.observed = s.observed ++ [⟨r, w, expectedResponse w⟩] ∧
      ∃ p, t.requesters[r]? = some p ∧ p.waiting = none

/-! ### The requesters -/

/-- 00_scope.md rule R6: a requester issues its calls one at a time, in order, and waits for each response. -/
def Obligations.RequesterWaitsForEachResponse : Prop :=
  (∀ (s : State) (r : Nat) (q : Requester) (w : Nat), s.requesters[r]? = some q → q.waiting = some w →
    requesterStep r s = .next s) ∧
  (∀ (s : State) (r : Nat) (q : Requester) (c : Call) (rest : List Call) (w : Nat),
    s.requesters[r]? = some q → q.waiting = none → q.script = c :: rest → toOperand s.params.pw c.value = some w →
    requesterStep r s =
      .next { s with requesters := s.requesters.set r { q with script := rest, waiting := some w } })

/-- After R70: an integer is presented unchanged or not at all. On the 14-bit port exactly [0, 16384) can be presented, as
it is; on a wider one every integer that the width holds and no other, as the number itself or its two's-complement
pattern, and what is outside the domain, 16384 and -1 too, is then out of domain for the block: it is never the word of an
index. Which integers a width holds, -2^(PW-1) to 2^PW - 1, is the model's reading (notes/assumptions/13.md). -/
def Obligations.IntegersAreNeverTruncatedToAnIndex : Prop :=
  (∀ (v : Int) (w : Nat), toOperand 14 v = some w ↔ (0 ≤ v ∧ v < 16384 ∧ (w : Int) = v)) ∧
  (∀ (pw : Nat) (v : Int) (w : Nat), 15 ≤ pw → toOperand pw v = some w →
    w < 2 ^ pw ∧ (w < 16384 ↔ 0 ≤ v ∧ v < 16384) ∧ (0 ≤ v → (w : Int) = v) ∧ (v < 0 → (w : Int) = v + (2 ^ pw : Nat))) ∧
  (∀ (pw : Nat) (v : Int), 15 ≤ pw →
    ((∃ w, toOperand pw v = some w) ↔ -((2 ^ (pw - 1) : Nat) : Int) ≤ v ∧ v < ((2 ^ pw : Nat) : Int))) ∧
  (∀ pw : Nat, 15 ≤ pw → toOperand pw 16384 = some 16384 ∧ toOperand pw (-1) = some (2 ^ pw - 1)) ∧
  toOperand 14 16384 = none ∧ toOperand 14 (-1) = none ∧
  (∀ v : Int, toIndex v = if 0 ≤ v ∧ v < 16384 then some (BitVec.ofInt 14 v) else none)

/-- After R61, R66 and R106: for a session that is not marked, on every port, DECRYPT_BYTE_K k, presented and served,
gives the legacy byte of `k | 2`, and DECRYPT_BYTE temp that of `temp` when bit 1 of temp is 1; neither can fault, so the
session stays unmarked. That the expansion is a LOOKUPX on a wide port, and that DECRYPT_BYTE runs with bit 1 clear too, is
the model's reading (notes/assumptions/14.md). Of a marked session no keystream is claimed (notes/assumptions/10.md); the
block's answer to it is that of every request (RequestsAreHeldUntilPublication). -/
def Obligations.DecryptByteGivesTheLegacyByte : Prop :=
  ∀ (s : State) (r : Nat) (q : Requester) (rest : List Call) (v : Working), s.Inv → s.readReady = true →
    s.schedule = [.requester r, .service r] → s.requesters[r]? = some q → q.waiting = none → q.faulted = false →
    (q.script = .decryptByteK v :: rest →
      ∃ t, runSteps 2 s = .next t ∧ t.requesters[r]? = some { q with script := rest } ∧
        t.observed = s.observed ++ [⟨r, v.toNat >>> 2, .byte (legacyByte (v ||| 2))⟩]) ∧
    (q.script = .decryptByte v :: rest →
      ∃ t, runSteps 2 s = .next t ∧ t.requesters[r]? = some { q with script := rest } ∧
        t.observed = s.observed ++ [⟨r, v.toNat >>> 2, .byte (valAt (v.toNat >>> 2))⟩] ∧
        (v.getLsbD 1 = true → valAt (v.toNat >>> 2) = legacyByte v)) ∧
    legacyByte (0x1234 ||| 2) = 0xB5 ∧ valAt 1165 = 0xB5

/-! ### Arithmetic -/

/-- R81, R82: the two factors are 4i + 3 and 4i + 2, in 16 bits; the shift of a widened index does not overflow. -/
def Obligations.FactorsOfAnIndex : Prop :=
  ∀ i : Index,
    (i.setWidth 16 <<< 2).toNat = 4 * i.toNat ∧ 4 * i.toNat ≤ 65532 ∧
    (factorA i).toNat = 4 * i.toNat + 3 ∧ (factorB i).toNat = 4 * i.toNat + 2 ∧
    3 ≤ (factorA i).toNat ∧ (factorA i).toNat ≤ 65535 ∧ (factorA i).toNat % 4 = 3 ∧
    2 ≤ (factorB i).toNat ∧ (factorB i).toNat ≤ 65534 ∧ (factorB i).toNat % 4 = 2 ∧
    factorA i = factorB i + 1 ∧ factorA i = factorB i ||| 1 ∧ factorA i = factorB i ^^^ 1 ∧
    factorB i = factorA i - 1 ∧ factorB i = factorA i ^^^ 1

/-- R83: the product is exact in 32 bits, even, between 6 and 4294770690, which it reaches at the two ends, and at or
above 2^31 exactly from index 11585 on. -/
def Obligations.ProductNeverOverflows : Prop :=
  (∀ i : Index,
    (mul32 (factorA i) (factorB i)).toNat = (factorA i).toNat * (factorB i).toNat ∧
    (factorA i).toNat * (factorB i).toNat = (factorB i).toNat ^ 2 + (factorB i).toNat ∧
    6 ≤ (mul32 (factorA i) (factorB i)).toNat ∧ (mul32 (factorA i) (factorB i)).toNat ≤ 4294770690 ∧
    (mul32 (factorA i) (factorB i)).toNat % 2 = 0 ∧
    (2147483647 < (mul32 (factorA i) (factorB i)).toNat ↔ 11585 ≤ i.toNat)) ∧
  (mul32 (factorA 0) (factorB 0)).toNat = 6 ∧ (mul32 (factorA 16383) (factorB 16383)).toNat = 4294770690

/-- R84: the byte is bits 15:8 of the product; bits 7:0 and 31:16 have no influence on it; it is not the product modulo
256. -/
def Obligations.ExtractionIsBits15To8 : Prop :=
  (∀ i : Index, (val i).toNat = (mul32 (factorA i) (factorB i)).toNat / 256 % 256) ∧
  (∀ p q : Product, (∀ k, 8 ≤ k → k < 16 → p.getLsbD k = q.getLsbD k) → bits15to8 p = bits15to8 q) ∧
  (val 0).toNat ≠ (mul32 (factorA 0) (factorB 0)).toNat % 256

/-- R35: bit k of the byte is bit k + 8 of the product. -/
def Obligations.BitOrderOfTheByte : Prop :=
  ∀ (i : Index) (k : Nat), k < 8 → (val i).getLsbD k = (mul32 (factorA i) (factorB i)).getLsbD (k + 8)

/-- R85: the polynomial form. -/
def Obligations.PolynomialFormOfTheValue : Prop :=
  ∀ i : Index,
    (mul32 (factorA i) (factorB i)).toNat = 16 * i.toNat ^ 2 + 20 * i.toNat + 6 ∧
    (val i).toNat = (16 * i.toNat ^ 2 + 20 * i.toNat + 6) / 256 % 256

/-- R86: the product may be computed modulo 2^W for every W of 16 or more; for every W of 15 or less some entry is
wrong, and for W = 15 exactly 8192 of them are. -/
def Obligations.SixteenBitsOfTheProductSuffice : Prop :=
  (∀ (i : Index) (W : Nat), 16 ≤ W →
    (val i).toNat = ((factorA i).toNat * (factorB i).toNat % 2 ^ W) >>> 8 &&& 0xFF) ∧
  (∀ W : Nat, W ≤ 15 → ∃ i : Index,
    (val i).toNat ≠ ((factorA i).toNat * (factorB i).toNat % 2 ^ W) >>> 8 &&& 0xFF) ∧
  ((Finset.univ : Finset Index).filter fun i =>
    (val i).toNat ≠ ((factorA i).toNat * (factorB i).toNat % 2 ^ 15) >>> 8 &&& 0xFF).card = 8192

/-- R87: the legacy byte of a working value with bit 1 set is the table's entry at `temp >> 2`, since the pair of `temp`
and `temp ^ 1` is the pair of factors; and with `temp = k | 2` it is the entry at `k >> 2`, for every k. -/
def Obligations.LegacyComputationEqualsTheTable : Prop :=
  (∀ temp : Working, temp.getLsbD 1 = true →
    legacyByte temp = val (formIndex temp) ∧
    (temp.getLsbD 0 = false → temp = factorB (formIndex temp) ∧ temp ^^^ 1 = factorA (formIndex temp)) ∧
    (temp.getLsbD 0 = true → temp = factorA (formIndex temp) ∧ temp ^^^ 1 = factorB (formIndex temp))) ∧
  (∀ k : Working, (k ||| 2).getLsbD 1 = true ∧ formIndex (k ||| 2) = formIndex k ∧
    legacyByte (k ||| 2) = val (formIndex k))

/-- R88: the legacy byte of `k | 2` depends on bits 15:2 of k alone. -/
def Obligations.LegacyByteIgnoresTheTwoLowBits : Prop :=
  ∀ h : Nat, h < 16384 → ∀ j : Nat, j < 4 → legacyByte (BitVec.ofNat 16 (4 * h + j) ||| 2) = valAt h

/-- R89: the upper half of the table is the lower half with bit 7 flipped, and `VAL` has no period below 16384 (no shift
of the index modulo 16384 but the zero one leaves every entry as it is). -/
def Obligations.HalfTableLaw : Prop :=
  (∀ i : Nat, i < 8192 → valAt (i + 8192) = valAt i ^^^ 0x80) ∧
  (∀ p : Index, p ≠ 0 → ∃ i : Index, val (i + p) ≠ val i)

/-- R90: every byte occurs exactly 64 times, the sum of the entries is 2088960, the first sixteen entries, and the table
is not monotone. -/
def Obligations.DistributionOfTheTable : Prop :=
  (∀ b : Byte, ((Finset.univ : Finset Index).filter fun i => val i = b).card = 64) ∧
  (∑ i : Index, (val i).toNat = 2088960) ∧
  (List.range 16).map valAt =
    [0x00, 0x00, 0x00, 0x00, 0x01, 0x01, 0x02, 0x03, 0x04, 0x05, 0x07, 0x08, 0x09, 0x0B, 0x0D, 0x0F] ∧
  (∃ i j : Index, i < j ∧ (val j).toNat < (val i).toNat)
end

