-- ==== Sys2Proof/Laws/State.lean ====
section
/-! SUPPORT. One lemma per field of State per update: what each operation leaves in that field. -/

namespace Sys2Proof.Machine

@[simp] theorem memWrite_params (a : Nat) (d : Byte) (s : State) : (memWrite a d s).params = s.params := rfl
@[simp] theorem memWrite_table (a : Nat) (d : Byte) (s : State) : (memWrite a d s).table = s.table.write s.params.initMode a d := rfl
@[simp] theorem memWrite_ready (a : Nat) (d : Byte) (s : State) : (memWrite a d s).ready = s.ready := rfl
@[simp] theorem memWrite_rst (a : Nat) (d : Byte) (s : State) : (memWrite a d s).rst = s.rst := rfl
@[simp] theorem memWrite_initializer (a : Nat) (d : Byte) (s : State) : (memWrite a d s).initializer = s.initializer := rfl
@[simp] theorem memWrite_requesters (a : Nat) (d : Byte) (s : State) : (memWrite a d s).requesters = s.requesters := rfl
@[simp] theorem memWrite_serving (a : Nat) (d : Byte) (s : State) : (memWrite a d s).serving = s.serving := rfl
@[simp] theorem memWrite_schedule (a : Nat) (d : Byte) (s : State) : (memWrite a d s).schedule = s.schedule := rfl
@[simp] theorem memWrite_observed (a : Nat) (d : Byte) (s : State) : (memWrite a d s).observed = s.observed := rfl

@[simp] theorem respondByte_params (x : Nat) (d : Byte) (s : State) : (respondByte x d s).params = s.params := rfl
@[simp] theorem respondByte_table (x : Nat) (d : Byte) (s : State) : (respondByte x d s).table = s.table := rfl
@[simp] theorem respondByte_ready (x : Nat) (d : Byte) (s : State) : (respondByte x d s).ready = s.ready := rfl
@[simp] theorem respondByte_rst (x : Nat) (d : Byte) (s : State) : (respondByte x d s).rst = s.rst := rfl
@[simp] theorem respondByte_initializer (x : Nat) (d : Byte) (s : State) : (respondByte x d s).initializer = s.initializer := rfl
@[simp] theorem respondByte_requesters (x : Nat) (d : Byte) (s : State) : (respondByte x d s).requesters = s.requesters.modify s.serving Requester.answered := rfl
@[simp] theorem respondByte_serving (x : Nat) (d : Byte) (s : State) : (respondByte x d s).serving = s.serving := rfl
@[simp] theorem respondByte_schedule (x : Nat) (d : Byte) (s : State) : (respondByte x d s).schedule = s.schedule := rfl
@[simp] theorem respondByte_observed (x : Nat) (d : Byte) (s : State) : (respondByte x d s).observed = s.observed ++ [⟨s.serving, x, .byte d⟩] := rfl

@[simp] theorem raiseDomainViolation_params (x : Nat) (s : State) : (raiseDomainViolation x s).params = s.params := rfl
@[simp] theorem raiseDomainViolation_table (x : Nat) (s : State) : (raiseDomainViolation x s).table = s.table := rfl
@[simp] theorem raiseDomainViolation_ready (x : Nat) (s : State) : (raiseDomainViolation x s).ready = s.ready := rfl
@[simp] theorem raiseDomainViolation_rst (x : Nat) (s : State) : (raiseDomainViolation x s).rst = s.rst := rfl
@[simp] theorem raiseDomainViolation_initializer (x : Nat) (s : State) : (raiseDomainViolation x s).initializer = s.initializer := rfl
@[simp] theorem raiseDomainViolation_requesters (x : Nat) (s : State) : (raiseDomainViolation x s).requesters = s.requesters.modify s.serving Requester.failed := rfl
@[simp] theorem raiseDomainViolation_serving (x : Nat) (s : State) : (raiseDomainViolation x s).serving = s.serving := rfl
@[simp] theorem raiseDomainViolation_schedule (x : Nat) (s : State) : (raiseDomainViolation x s).schedule = s.schedule := rfl
@[simp] theorem raiseDomainViolation_observed (x : Nat) (s : State) : (raiseDomainViolation x s).observed = s.observed ++ [⟨s.serving, x, .domainViolation x⟩] := rfl

@[simp] theorem constructIteration_params (i : Nat) (s : State) : (constructIteration i s).params = s.params := rfl
@[simp] theorem constructIteration_table (i : Nat) (s : State) : (constructIteration i s).table = s.table.write s.params.initMode i (valAt i) := rfl
@[simp] theorem constructIteration_ready (i : Nat) (s : State) : (constructIteration i s).ready = s.ready := rfl
@[simp] theorem constructIteration_rst (i : Nat) (s : State) : (constructIteration i s).rst = s.rst := rfl
@[simp] theorem constructIteration_initializer (i : Nat) (s : State) : (constructIteration i s).initializer = s.initializer := rfl
@[simp] theorem constructIteration_requesters (i : Nat) (s : State) : (constructIteration i s).requesters = s.requesters := rfl
@[simp] theorem constructIteration_serving (i : Nat) (s : State) : (constructIteration i s).serving = s.serving := rfl
@[simp] theorem constructIteration_schedule (i : Nat) (s : State) : (constructIteration i s).schedule = s.schedule := rfl
@[simp] theorem constructIteration_observed (i : Nat) (s : State) : (constructIteration i s).observed = s.observed := rfl

@[simp] theorem resetOf_params (p : BlockParams) : (State.resetOf p).params = p := rfl
@[simp] theorem resetOf_table (p : BlockParams) : (State.resetOf p).table = [] := rfl
@[simp] theorem resetOf_ready (p : BlockParams) : (State.resetOf p).ready = (match p.initMode with | .constant => true | .constructed => false) := rfl
@[simp] theorem resetOf_rst (p : BlockParams) : (State.resetOf p).rst = false := rfl
@[simp] theorem resetOf_initializer (p : BlockParams) : (State.resetOf p).initializer = (match p.initMode with | .constant => .absent | .constructed => .building 0) := rfl
@[simp] theorem resetOf_requesters (p : BlockParams) : (State.resetOf p).requesters = [Requester.fresh] := rfl
@[simp] theorem resetOf_serving (p : BlockParams) : (State.resetOf p).serving = 0 := rfl
@[simp] theorem resetOf_schedule (p : BlockParams) : (State.resetOf p).schedule = [] := rfl
@[simp] theorem resetOf_observed (p : BlockParams) : (State.resetOf p).observed = [] := rfl

@[simp] theorem loaded_params (p : BlockParams) (q : List Requester) (a : List Agent) :
    (State.loaded p q a).params = (State.resetOf p).params := rfl
@[simp] theorem loaded_table (p : BlockParams) (q : List Requester) (a : List Agent) :
    (State.loaded p q a).table = (State.resetOf p).table := rfl
@[simp] theorem loaded_ready (p : BlockParams) (q : List Requester) (a : List Agent) :
    (State.loaded p q a).ready = (State.resetOf p).ready := rfl
@[simp] theorem loaded_rst (p : BlockParams) (q : List Requester) (a : List Agent) :
    (State.loaded p q a).rst = (State.resetOf p).rst := rfl
@[simp] theorem loaded_initializer (p : BlockParams) (q : List Requester) (a : List Agent) :
    (State.loaded p q a).initializer = (State.resetOf p).initializer := rfl
@[simp] theorem loaded_requesters (p : BlockParams) (q : List Requester) (a : List Agent) :
    (State.loaded p q a).requesters = q := rfl
@[simp] theorem loaded_serving (p : BlockParams) (q : List Requester) (a : List Agent) :
    (State.loaded p q a).serving = (State.resetOf p).serving := rfl
@[simp] theorem loaded_schedule (p : BlockParams) (q : List Requester) (a : List Agent) :
    (State.loaded p q a).schedule = a := rfl
@[simp] theorem loaded_observed (p : BlockParams) (q : List Requester) (a : List Agent) :
    (State.loaded p q a).observed = (State.resetOf p).observed := rfl

@[simp] theorem withFetchWord_params (s : State) (nbits w : Nat) : (s.withFetchWord nbits w).params = { s.params with pw := portFor nbits } := rfl
@[simp] theorem withFetchWord_table (s : State) (nbits w : Nat) : (s.withFetchWord nbits w).table = s.table := rfl
@[simp] theorem withFetchWord_ready (s : State) (nbits w : Nat) : (s.withFetchWord nbits w).ready = s.ready := rfl
@[simp] theorem withFetchWord_rst (s : State) (nbits w : Nat) : (s.withFetchWord nbits w).rst = s.rst := rfl
@[simp] theorem withFetchWord_initializer (s : State) (nbits w : Nat) : (s.withFetchWord nbits w).initializer = s.initializer := rfl
@[simp] theorem withFetchWord_requesters (s : State) (nbits w : Nat) : (s.withFetchWord nbits w).requesters = placeWord (tableWord nbits w) s.requesters := rfl
@[simp] theorem withFetchWord_serving (s : State) (nbits w : Nat) : (s.withFetchWord nbits w).serving = s.serving := rfl
@[simp] theorem withFetchWord_schedule (s : State) (nbits w : Nat) : (s.withFetchWord nbits w).schedule = .service 0 :: s.schedule := rfl
@[simp] theorem withFetchWord_observed (s : State) (nbits w : Nat) : (s.withFetchWord nbits w).observed = s.observed := rfl

@[simp] theorem setInitializer_params (i : Initializer) (s : State) : (s.setInitializer i).params = s.params := rfl
@[simp] theorem setInitializer_table (i : Initializer) (s : State) : (s.setInitializer i).table = s.table := rfl
@[simp] theorem setInitializer_ready (i : Initializer) (s : State) : (s.setInitializer i).ready = s.ready := rfl
@[simp] theorem setInitializer_rst (i : Initializer) (s : State) : (s.setInitializer i).rst = s.rst := rfl
@[simp] theorem setInitializer_initializer (i : Initializer) (s : State) : (s.setInitializer i).initializer = i := rfl
@[simp] theorem setInitializer_requesters (i : Initializer) (s : State) : (s.setInitializer i).requesters = s.requesters := rfl
@[simp] theorem setInitializer_serving (i : Initializer) (s : State) : (s.setInitializer i).serving = s.serving := rfl
@[simp] theorem setInitializer_schedule (i : Initializer) (s : State) : (s.setInitializer i).schedule = s.schedule := rfl
@[simp] theorem setInitializer_observed (i : Initializer) (s : State) : (s.setInitializer i).observed = s.observed := rfl

@[simp] theorem writeReady_params (b : Bool) (s : State) : (s.writeReady b).params = s.params := by
  unfold State.writeReady; repeat' split
  all_goals rfl
@[simp] theorem writeReady_table (b : Bool) (s : State) : (s.writeReady b).table = s.table := by
  unfold State.writeReady; repeat' split
  all_goals rfl
@[simp] theorem writeReady_rst (b : Bool) (s : State) : (s.writeReady b).rst = s.rst := by
  unfold State.writeReady; repeat' split
  all_goals rfl
@[simp] theorem writeReady_initializer (b : Bool) (s : State) : (s.writeReady b).initializer = s.initializer := by
  unfold State.writeReady; repeat' split
  all_goals rfl
@[simp] theorem writeReady_requesters (b : Bool) (s : State) : (s.writeReady b).requesters = s.requesters := by
  unfold State.writeReady; repeat' split
  all_goals rfl
@[simp] theorem writeReady_serving (b : Bool) (s : State) : (s.writeReady b).serving = s.serving := by
  unfold State.writeReady; repeat' split
  all_goals rfl
@[simp] theorem writeReady_schedule (b : Bool) (s : State) : (s.writeReady b).schedule = s.schedule := by
  unfold State.writeReady; repeat' split
  all_goals rfl
@[simp] theorem writeReady_observed (b : Bool) (s : State) : (s.writeReady b).observed = s.observed := by
  unfold State.writeReady; repeat' split
  all_goals rfl

@[simp] theorem publish_params (s : State) : (publish s).params = s.params := writeReady_params true s
@[simp] theorem publish_table (s : State) : (publish s).table = s.table := writeReady_table true s
@[simp] theorem publish_rst (s : State) : (publish s).rst = s.rst := writeReady_rst true s
@[simp] theorem publish_requesters (s : State) : (publish s).requesters = s.requesters := writeReady_requesters true s
@[simp] theorem publish_serving (s : State) : (publish s).serving = s.serving := writeReady_serving true s
@[simp] theorem publish_schedule (s : State) : (publish s).schedule = s.schedule := writeReady_schedule true s
@[simp] theorem publish_observed (s : State) : (publish s).observed = s.observed := writeReady_observed true s
@[simp] theorem publish_initializer (s : State) : (publish s).initializer = .done := rfl

@[simp] theorem assertReset_params (s : State) : (assertReset s).params = s.params := by
  unfold assertReset; repeat' split
  all_goals rfl
@[simp] theorem assertReset_rst (s : State) : (assertReset s).rst = true := by
  unfold assertReset; repeat' split
  all_goals rfl
@[simp] theorem assertReset_requesters (s : State) : (assertReset s).requesters = s.requesters.map Requester.abandoned := by
  unfold assertReset; repeat' split
  all_goals rfl
@[simp] theorem assertReset_serving (s : State) : (assertReset s).serving = s.serving := by
  unfold assertReset; repeat' split
  all_goals rfl
@[simp] theorem assertReset_schedule (s : State) : (assertReset s).schedule = s.schedule := by
  unfold assertReset; repeat' split
  all_goals rfl
@[simp] theorem assertReset_observed (s : State) : (assertReset s).observed = s.observed := by
  unfold assertReset; repeat' split
  all_goals rfl

@[simp] theorem releaseReset_params (s : State) : (releaseReset s).params = s.params := by
  unfold releaseReset; repeat' split
  all_goals rfl
@[simp] theorem releaseReset_table (s : State) : (releaseReset s).table = s.table := by
  unfold releaseReset; repeat' split
  all_goals rfl
@[simp] theorem releaseReset_ready (s : State) : (releaseReset s).ready = s.ready := by
  unfold releaseReset; repeat' split
  all_goals rfl
@[simp] theorem releaseReset_requesters (s : State) : (releaseReset s).requesters = s.requesters := by
  unfold releaseReset; repeat' split
  all_goals rfl
@[simp] theorem releaseReset_serving (s : State) : (releaseReset s).serving = s.serving := by
  unfold releaseReset; repeat' split
  all_goals rfl
@[simp] theorem releaseReset_schedule (s : State) : (releaseReset s).schedule = s.schedule := by
  unfold releaseReset; repeat' split
  all_goals rfl
@[simp] theorem releaseReset_observed (s : State) : (releaseReset s).observed = s.observed := by
  unfold releaseReset; repeat' split
  all_goals rfl

@[simp] theorem initializerStep_params (s : State) : (initializerStep s).params = s.params := by
  unfold initializerStep; repeat' split
  all_goals simp
@[simp] theorem initializerStep_rst (s : State) : (initializerStep s).rst = s.rst := by
  unfold initializerStep; repeat' split
  all_goals simp
@[simp] theorem initializerStep_requesters (s : State) : (initializerStep s).requesters = s.requesters := by
  unfold initializerStep; repeat' split
  all_goals simp
@[simp] theorem initializerStep_serving (s : State) : (initializerStep s).serving = s.serving := by
  unfold initializerStep; repeat' split
  all_goals simp
@[simp] theorem initializerStep_schedule (s : State) : (initializerStep s).schedule = s.schedule := by
  unfold initializerStep; repeat' split
  all_goals simp
@[simp] theorem initializerStep_observed (s : State) : (initializerStep s).observed = s.observed := by
  unfold initializerStep; repeat' split
  all_goals simp

@[simp] theorem answered_script (q : Requester) : q.answered.script = q.script := rfl
@[simp] theorem answered_waiting (q : Requester) : q.answered.waiting = none := rfl
@[simp] theorem answered_faulted (q : Requester) : q.answered.faulted = q.faulted := rfl
@[simp] theorem failed_script (q : Requester) : q.failed.script = q.script := rfl
@[simp] theorem failed_waiting (q : Requester) : q.failed.waiting = none := rfl
@[simp] theorem failed_faulted (q : Requester) : q.failed.faulted = true := rfl
@[simp] theorem abandoned_script (q : Requester) : q.abandoned.script = q.script := rfl
@[simp] theorem abandoned_waiting (q : Requester) : q.abandoned.waiting = none := rfl
@[simp] theorem abandoned_faulted (q : Requester) : q.abandoned.faulted = q.faulted := rfl

end Sys2Proof.Machine
end

