-- ==== Sys2Proof/Laws/Memory.lean ====
section
/-! SUPPORT. The table space as data: reads after writes, and the canonical form that every operation keeps. -/

namespace Sys2Proof.Machine

/-- An address below every listed one is not listed. -/
theorem Memory.find_eq_none_of_lt (m : Memory) (a : Nat) (h : ∀ c ∈ m, a < c.1) : m.find a = none := by
  induction m with
  | nil => rfl
  | cons c rest ih =>
    have hc := h c (by simp)
    rw [Memory.find, if_neg (by omega)]
    exact ih fun c' h' => h c' (by simp [h'])

theorem Memory.find_insert_same (m : Memory) (a : Nat) (d : Byte) : (m.insert a d).find a = some d := by
  induction m with
  | nil => simp [Memory.insert, Memory.find]
  | cons c rest ih =>
    rw [Memory.insert]
    split
    · simp [Memory.find]
    · split
      · simp [Memory.find]
      · rw [Memory.find, if_neg (by omega), ih]

theorem Memory.find_insert_other (m : Memory) (a b : Nat) (d : Byte) (h : b ≠ a) :
    (m.insert a d).find b = m.find b := by
  induction m with
  | nil => simp [Memory.insert, Memory.find, h.symm]
  | cons c rest ih =>
    rw [Memory.insert]
    split
    · simp [Memory.find, h.symm]
    · split
      next heq => simp [Memory.find, h.symm, ← heq]
      · simp [Memory.find, ih]

theorem Memory.find_erase_same (m : Memory) (a : Nat) : (m.erase a).find a = none := by
  induction m with
  | nil => rfl
  | cons c rest ih =>
    by_cases hc : c.1 = a
    · simpa [Memory.erase, hc] using ih
    · simpa [Memory.erase, hc, Memory.find] using ih

theorem Memory.find_erase_other (m : Memory) (a b : Nat) (h : b ≠ a) : (m.erase a).find b = m.find b := by
  induction m with
  | nil => rfl
  | cons c rest ih =>
    by_cases hc : c.1 = a
    · have hb : ¬ c.1 = b := by omega
      simpa [Memory.erase, hc, Memory.find, hb, h.symm] using ih
    · simp only [Memory.erase, ne_eq, decide_not] at ih
      simp [Memory.erase, hc, Memory.find, ih]

/-- A cell reads as what was written to it. -/
theorem Memory.read_write_same (mode : InitMode) (m : Memory) (a : Nat) (d : Byte) :
    (m.write mode a d).read mode a = some d := by
  rw [Memory.write]
  by_cases h : Memory.unlisted mode a = some d
  · rw [if_pos h, Memory.read, Memory.find_erase_same, h]
  · rw [if_neg h, Memory.read, Memory.find_insert_same]

/-- A write leaves every other cell alone. -/
theorem Memory.read_write_other (mode : InitMode) (m : Memory) (a b : Nat) (d : Byte) (h : b ≠ a) :
    (m.write mode a d).read mode b = m.read mode b := by
  rw [Memory.write]
  by_cases hu : Memory.unlisted mode a = some d
  · rw [if_pos hu, Memory.read, Memory.read, Memory.find_erase_other m a b h]
  · rw [if_neg hu, Memory.read, Memory.read, Memory.find_insert_other m a b d h]

theorem Memory.mem_insert (m : Memory) (a : Nat) (d : Byte) (c : Host.Cell) (h : c ∈ m.insert a d) :
    c = (a, d) ∨ c ∈ m := by
  induction m with
  | nil => simpa [Memory.insert] using h
  | cons c' rest ih =>
    rw [Memory.insert] at h
    split at h
    · simpa using h
    · split at h
      · rcases List.mem_cons.mp h with h | h
        · exact .inl h
        · exact .inr (List.mem_cons_of_mem _ h)
      · rcases List.mem_cons.mp h with h | h
        · exact .inr (by simp [h])
        · rcases ih h with h | h
          · exact .inl h
          · exact .inr (List.mem_cons_of_mem _ h)

theorem Memory.rising_insert (m : Memory) (a : Nat) (d : Byte)
    (h : m.Pairwise fun c e => c.1 < e.1) : (m.insert a d).Pairwise fun c e => c.1 < e.1 := by
  induction m with
  | nil => simp [Memory.insert]
  | cons c rest ih =>
    obtain ⟨hc, hrest⟩ := List.pairwise_cons.mp h
    rw [Memory.insert]
    split
    next hlt =>
      refine List.pairwise_cons.mpr ⟨fun e he => ?_, h⟩
      rcases List.mem_cons.mp he with rfl | he
      · exact hlt
      · exact Nat.lt_trans hlt (hc e he)
    · split
      next heq => exact List.pairwise_cons.mpr ⟨fun e he => heq ▸ hc e he, hrest⟩
      next hne =>
        refine List.pairwise_cons.mpr ⟨fun e he => ?_, ih hrest⟩
        rcases Memory.mem_insert rest a d e he with rfl | he
        · show c.1 < a
          omega
        · exact hc e he

/-- Every write to a cell of the table space keeps the canonical form. -/
theorem Memory.write_wf (mode : InitMode) (m : Memory) (a : Nat) (d : Byte) (ha : a < 16384)
    (h : Memory.wf mode m) : Memory.wf mode (m.write mode a d) := by
  unfold Memory.write
  split
  · exact ⟨h.1.filter _, fun c hc => h.2 c (List.mem_of_mem_filter hc)⟩
  next hne =>
    refine ⟨Memory.rising_insert m a d h.1, fun c hc => ?_⟩
    rcases Memory.mem_insert m a d c hc with rfl | hc
    · exact ⟨ha, hne⟩
    · exact h.2 c hc

/-- The empty table is in canonical form: so is that of every reset state. -/
theorem Memory.wf_nil (mode : InitMode) : Memory.wf mode [] := ⟨List.Pairwise.nil, by simp⟩

theorem resetOf_table_wf (p : BlockParams) : Memory.wf p.initMode (State.resetOf p).table := Memory.wf_nil _

theorem Memory.find_of_mem (m : Memory) (h : m.Pairwise fun c e => c.1 < e.1) (c : Host.Cell) (hc : c ∈ m) :
    m.find c.1 = some c.2 := by
  induction m with
  | nil => simp at hc
  | cons e rest ih =>
    obtain ⟨he, hrest⟩ := List.pairwise_cons.mp h
    rw [Memory.find]
    rcases List.mem_cons.mp hc with rfl | hc
    · simp
    · have := he c hc
      rw [if_neg (by omega)]
      exact ih hrest hc

theorem Memory.mem_of_find (m : Memory) (a : Nat) (d : Byte) (h : m.find a = some d) : (a, d) ∈ m := by
  induction m with
  | nil => simp [Memory.find] at h
  | cons c rest ih =>
    rw [Memory.find] at h
    split at h
    next heq =>
      cases h
      exact List.mem_cons.mpr (.inl (by rw [← heq]))
    next => exact List.mem_cons_of_mem _ (ih h)

/-- In canonical form an entry is what its address reads as, and differs from what it would read as unlisted. -/
theorem Memory.mem_iff_read (mode : InitMode) (m : Memory) (h : Memory.wf mode m) (c : Host.Cell) :
    c ∈ m ↔ m.read mode c.1 = some c.2 ∧ Memory.unlisted mode c.1 ≠ some c.2 := by
  constructor
  · intro hc
    exact ⟨by rw [Memory.read, Memory.find_of_mem m h.1 c hc], (h.2 c hc).2⟩
  · rintro ⟨hr, hu⟩
    unfold Memory.read at hr
    split at hr
    next d hd =>
      cases hr
      exact Memory.mem_of_find m c.1 c.2 hd
    next => exact absurd hr hu

/-- Equal memories are equal lists: two tables in canonical form that read alike everywhere are one. -/
theorem Memory.ext_read (mode : InitMode) (m n : Memory) (hm : Memory.wf mode m) (hn : Memory.wf mode n)
    (h : ∀ a, m.read mode a = n.read mode a) : m = n := by
  have nodup : ∀ l : Memory, l.Pairwise (fun c e => c.1 < e.1) → l.Nodup := fun l hl =>
    hl.imp fun hlt heq => by rw [heq] at hlt; exact Nat.lt_irrefl _ hlt
  have hperm : m.Perm n := by
    rw [List.perm_ext_iff_of_nodup (nodup m hm.1) (nodup n hn.1)]
    intro c
    rw [Memory.mem_iff_read mode m hm, Memory.mem_iff_read mode n hn, h]
  refine List.Perm.eq_of_pairwise (le := fun c e => c.1 < e.1) ?_ hm.1 hn.1 hperm
  intro a b _ _ h1 h2
  omega

end Sys2Proof.Machine
end

