-- ==== Sys2Proof/Laws/Ops.lean ====
section
/-! SUPPORT. For each shared operation, once, everything it can do: the lemmas later proofs cite instead of unfolding it. -/

namespace Sys2Proof.Machine

/-! ### Cells and READY depend on three fields only -/

theorem cell_congr (s t : State) (hp : t.params = s.params) (ht : t.table = s.table) : t.cell = s.cell := by
  funext a
  simp [State.cell, hp, ht]

theorem readReady_congr (s t : State) (hp : t.params = s.params) (hr : t.ready = s.ready) :
    t.readReady = s.readReady := by
  simp [State.readReady, hp, hr]

@[simp] theorem cell_respondByte (x : Nat) (d : Byte) (s : State) : (respondByte x d s).cell = s.cell :=
  cell_congr _ _ rfl rfl

@[simp] theorem cell_raiseDomainViolation (x : Nat) (s : State) : (raiseDomainViolation x s).cell = s.cell :=
  cell_congr _ _ rfl rfl

@[simp] theorem cell_setInitializer (i : Initializer) (s : State) : (s.setInitializer i).cell = s.cell :=
  cell_congr _ _ rfl rfl

@[simp] theorem readReady_setInitializer (i : Initializer) (s : State) :
    (s.setInitializer i).readReady = s.readReady := rfl

@[simp] theorem cell_publish (s : State) : (publish s).cell = s.cell :=
  cell_congr _ _ (publish_params s) (publish_table s)

@[simp] theorem cell_releaseReset (s : State) : (releaseReset s).cell = s.cell :=
  cell_congr _ _ (releaseReset_params s) (releaseReset_table s)

@[simp] theorem readReady_respondByte (x : Nat) (d : Byte) (s : State) :
    (respondByte x d s).readReady = s.readReady := rfl

@[simp] theorem readReady_raiseDomainViolation (x : Nat) (s : State) :
    (raiseDomainViolation x s).readReady = s.readReady := rfl

@[simp] theorem readReady_releaseReset (s : State) : (releaseReset s).readReady = s.readReady :=
  readReady_congr _ _ (releaseReset_params s) (releaseReset_ready s)

/-- READY reads 1 after publication, in either mode. -/
@[simp] theorem readReady_publish (s : State) : (publish s).readReady = true := by
  cases hm : s.params.initMode <;> simp [publish, State.readReady, State.writeReady, State.setInitializer, hm]

theorem readReady_of_constant (s : State) (h : s.params.initMode = .constant) : s.readReady = true := by
  simp [State.readReady, h]

theorem readReady_of_constructed (s : State) (h : s.params.initMode = .constructed) : s.readReady = s.ready := by
  simp [State.readReady, h]

/-! ### Writing a cell -/

theorem cell_memWrite_same (s : State) (a : Nat) (d : Byte) (ha : a < 16384) :
    (memWrite a d s).cell a = some d := by
  simp [State.cell, ha, Memory.read_write_same]

theorem cell_memWrite_other (s : State) (a b : Nat) (d : Byte) (h : b ≠ a) :
    (memWrite a d s).cell b = s.cell b := by
  simp only [State.cell, memWrite_params, memWrite_table]
  rw [Memory.read_write_other _ _ _ _ _ h]

/-- In the default mode an empty table reads `VAL` in every cell. -/
theorem cell_of_constant_nil (s : State) (hm : s.params.initMode = .constant) (ht : s.table = []) (a : Nat)
    (ha : a < 16384) : s.cell a = some (valAt a) := by
  simp [State.cell, ha, ht, hm, Memory.read, Memory.find, Memory.unlisted]

/-- In CONSTRUCTED mode a cell of an empty table holds no value. -/
theorem cell_of_constructed_nil (s : State) (hm : s.params.initMode = .constructed) (ht : s.table = []) (a : Nat) :
    s.cell a = none := by
  simp [State.cell, ht, hm, Memory.read, Memory.find, Memory.unlisted]

/-! ### Reading a cell -/

theorem memRead_of_ready (s : State) (a : Nat) (h : s.readReady = true) : memRead a s = s.cell a := by
  simp [memRead, h]

theorem readAndRespond_of_cell (s : State) (a : Nat) (d : Byte) (hr : s.readReady = true) (hc : s.cell a = some d) :
    readAndRespond a s = .next (respondByte a d s) := by
  simp [readAndRespond, memRead_of_ready s a hr, hc]

/-- Everything a read can do, if it answers a next state. -/
theorem readAndRespond_cases (a : Nat) (s t : State) (h : readAndRespond a s = .next t) :
    ∃ d, memRead a s = some d ∧ t = respondByte a d s := by
  unfold readAndRespond at h
  split at h
  next d hd => exact ⟨d, hd, by simpa using h.symm⟩
  next => cases h

/-! ### The lookups -/

theorem whenPublished_ready (s : State) (o : Host.Outcome State Fault Refusal) (h : s.readReady = true) :
    whenPublished s o = o := by
  simp [whenPublished, h]

theorem whenPublished_held (s : State) (o : Host.Outcome State Fault Refusal) (h : s.readReady = false) :
    whenPublished s o = .next s := by
  simp [whenPublished, h]

/-- The operand a request presents. -/
def operandOf : Instr → Nat
  | .lookup idx => idx.toNat
  | .lookupx x => x

/-- Everything a request can do, if it answers a next state: it is held, or its cell is read, or it raises
DomainViolation. -/
theorem exec_cases (i : Instr) (s t : State) (h : exec i s = .next t) :
    (s.readReady = false ∧ t = s) ∨
    (s.readReady = true ∧ operandOf i < 16384 ∧
      ∃ d, s.cell (operandOf i) = some d ∧ t = respondByte (operandOf i) d s) ∨
    (s.readReady = true ∧ 16384 ≤ operandOf i ∧ t = raiseDomainViolation (operandOf i) s) := by
  cases hr : s.readReady with
  | false =>
    refine .inl ⟨rfl, ?_⟩
    cases i <;> exact (Host.Outcome.next.inj ((whenPublished_held s _ hr).symm.trans h)).symm
  | true =>
    cases i with
    | lookup idx =>
      simp only [exec, execLookup, whenPublished_ready s _ hr] at h
      obtain ⟨d, hd, rfl⟩ := readAndRespond_cases _ _ _ h
      exact .inr (.inl ⟨rfl, idx.isLt, d, by rwa [memRead_of_ready s _ hr] at hd, rfl⟩)
    | lookupx x =>
      simp only [exec, execLookupx, whenPublished_ready s _ hr] at h
      by_cases hx : x < 16384
      · rw [if_pos (by simpa [inDomain] using hx)] at h
        obtain ⟨d, hd, rfl⟩ := readAndRespond_cases _ _ _ h
        exact .inr (.inl ⟨rfl, hx, d, by rwa [memRead_of_ready s _ hr] at hd, rfl⟩)
      · rw [if_neg (by simpa [inDomain] using hx)] at h
        exact .inr (.inr ⟨rfl, by simpa [operandOf] using hx, (Host.Outcome.next.inj h).symm⟩)

/-! ### The initializer -/

/-- Everything the initializer's step can do: nothing, one iteration, or publication. -/
theorem initializerStep_cases (s : State) :
    ((∀ i, s.initializer ≠ .building i) ∧ initializerStep s = s) ∨
    (∃ i, s.initializer = .building i ∧ i < 16384 ∧
      initializerStep s = (constructIteration i s).setInitializer (.building (i + 1))) ∨
    (∃ i, s.initializer = .building i ∧ 16384 ≤ i ∧ initializerStep s = publish s) := by
  unfold initializerStep
  cases s.initializer with
  | building i =>
    by_cases hi : i < 16384
    · exact .inr (.inl ⟨i, rfl, hi, by simp [hi]⟩)
    · exact .inr (.inr ⟨i, rfl, by omega, by simp [hi]⟩)
  | absent => exact .inl ⟨by simp, rfl⟩
  | inReset => exact .inl ⟨by simp, rfl⟩
  | done => exact .inl ⟨by simp, rfl⟩

/-! ### Requesters and the port -/

/-- Everything a requester's step can do, if it answers a next state. -/
theorem requesterStep_cases (r : Nat) (s t : State) (h : requesterStep r s = .next t) :
    t = s ∨
    ∃ q c rest w, s.requesters[r]? = some q ∧ q.waiting = none ∧ q.script = c :: rest ∧
      toOperand s.params.pw c.value = some w ∧
      t = { s with requesters := s.requesters.set r { q with script := rest, waiting := some w } } := by
  unfold requesterStep at h
  split at h
  next => exact .inl ((Host.Outcome.next.inj h).symm)
  next q hq =>
    split at h
    next c rest hw hs =>
      split at h
      next w hv => exact .inr ⟨q, c, rest, w, hq, hw, hs, hv, (Host.Outcome.next.inj h).symm⟩
      next => cases h
    next => exact .inl ((Host.Outcome.next.inj h).symm)

/-- A request taken up is the outstanding word of its requester, decoded; only `serving` changes. -/
theorem fetch_request (r : Nat) (s u : State) (i : Instr) (h : fetch r s = .request i u) :
    ∃ q w, s.requesters[r]? = some q ∧ q.waiting = some w ∧ decode s.params.pw w = .ok i ∧
      u = { s with serving := r } := by
  unfold fetch at h
  split at h
  next => cases h
  next q hq =>
    split at h
    next => cases h
    next w hw =>
      split at h
      next j hj =>
        cases h
        exact ⟨q, w, hq, hw, hj, rfl⟩
      next => cases h

theorem fetch_of_waiting (r : Nat) (s : State) (q : Requester) (w : Nat) (i : Instr)
    (hq : s.requesters[r]? = some q) (hw : q.waiting = some w) (hd : decode s.params.pw w = .ok i) :
    fetch r s = .request i { s with serving := r } := by
  simp [fetch, hq, hw, hd]

/-- Picking an agent changes the schedule only. -/
theorem pickAgent_snd (s : State) : ∃ rest, (pickAgent s).2 = { s with schedule := rest } := by
  unfold pickAgent
  split
  next rest _ => exact ⟨rest, rfl⟩
  next => exact ⟨s.schedule, rfl⟩

/-- Everything a step can do, if it answers a next state; `t` is the state with the schedule's entry taken off. -/
theorem step_cases (s s' : State) (h : step s = .next s') :
    ∃ rest, ∃ t : State, t = { s with schedule := rest } ∧
      (s' = t ∨
      (∃ r i q w, t.requesters[r]? = some q ∧ q.waiting = some w ∧ decode t.params.pw w = .ok i ∧
        exec i { t with serving := r } = .next s') ∨
      s' = initializerStep t ∨
      (∃ r, requesterStep r t = .next s') ∨
      s' = assertReset t ∨
      s' = releaseReset t) := by
  obtain ⟨rest, hrest⟩ := pickAgent_snd s
  refine ⟨rest, (pickAgent s).2, hrest, ?_⟩
  unfold step at h
  split at h
  next r t hp =>
    rw [hp]
    split at h
    next i u hf =>
      obtain ⟨q, w, hq, hw, hd, rfl⟩ := fetch_request r t u i hf
      exact .inr (.inl ⟨r, i, q, w, hq, hw, hd, h⟩)
    next => exact .inl ((Host.Outcome.next.inj h).symm)
    next => cases h
  next t hp => exact .inr (.inr (.inl (by rw [hp]; exact (Host.Outcome.next.inj h).symm)))
  next r t hp => exact .inr (.inr (.inr (.inl ⟨r, by rw [hp]; exact h⟩)))
  next t hp => exact .inr (.inr (.inr (.inr (.inl (by rw [hp]; exact (Host.Outcome.next.inj h).symm)))))
  next t hp => exact .inr (.inr (.inr (.inr (.inr (by rw [hp]; exact (Host.Outcome.next.inj h).symm)))))
  next t hp => exact .inl (by rw [hp]; exact (Host.Outcome.next.inj h).symm)

/-- A step whose agent is named by the schedule. -/
theorem pickAgent_cons (s : State) (a : Agent) (rest : List Agent) (h : s.schedule = a :: rest) :
    pickAgent s = (a, { s with schedule := rest }) := by
  simp [pickAgent, h]

theorem pickAgent_nil (s : State) (h : s.schedule = []) : pickAgent s = (defaultAgent s, s) := by
  simp [pickAgent, h]

/-- Runs compose. -/
theorem runSteps_add (m n : Nat) (s t : State) (h : runSteps m s = .next t) : runSteps (m + n) s = runSteps n t := by
  induction m generalizing s with
  | zero =>
    cases h
    simp
  | succ m ih =>
    rw [Nat.add_right_comm, runSteps]
    rw [runSteps] at h
    split at h
    next u hu => exact ih u h
    next => cases h
    next => cases h

/-- One step of the host's run, by the outcome of the machine's step. -/
theorem core_run_next (M : Host.Core) (k : Nat) (s t : M.State) (h : M.step s = .next t) :
    M.run (k + 1) s = M.run k t := by
  simp [Host.Core.run, h]

theorem core_run_fault (M : Host.Core) (k : Nat) (s : M.State) (r : M.Fault) (h : M.step s = .fault r) :
    M.run (k + 1) s = .fault r := by
  simp [Host.Core.run, h]

theorem core_run_refused (M : Host.Core) (k : Nat) (s : M.State) (r : M.Refusal) (h : M.step s = .refused r) :
    M.run (k + 1) s = .refused r := by
  simp [Host.Core.run, h]

/-- The runs statements speak of are the host's. -/
theorem runSteps_eq_core_run (k : Nat) (s : State) : runSteps k s = Host.Core.run Sys2Proof.core k s := by
  induction k generalizing s with
  | zero => rfl
  | succ k ih =>
    rw [runSteps]
    cases hs : step s with
    | next t => exact (ih t).trans (core_run_next Sys2Proof.core k s t hs).symm
    | fault r => exact (core_run_fault Sys2Proof.core k s r hs).symm
    | refused r => exact (core_run_refused Sys2Proof.core k s r hs).symm

end Sys2Proof.Machine
end

