-- ==== Sys2Proof/Laws/PerInstr.lean ====
section
/-! SUPPORT. Statements made per operation: a family names a property of one operation as syntax, with one lemma per
constructor of Instr. -/

namespace Sys2Proof.Laws

/-- The request word of a well-formed operation fits its port. -/
def EncodeFits.Statement (i : Instr) : Prop := ∀ pw, i.wellFormed pw = true → encode i < 2 ^ pw

theorem EncodeFits.lookup (idx : Index) : EncodeFits.Statement (.lookup idx) := by
  intro pw h
  have hpw : pw = 14 := by simpa [Instr.wellFormed] using h
  subst hpw
  exact idx.isLt

theorem EncodeFits.lookupx (x : Nat) : EncodeFits.Statement (.lookupx x) := by
  intro pw h
  obtain ⟨_, hx⟩ : 15 ≤ pw ∧ x < 2 ^ pw := by simpa [Instr.wellFormed] using h
  have hword : (x / 16384) <<< 14 ||| x % 16384 = x := by
    rw [← Nat.shiftLeft_add_eq_or_of_lt (show x % 16384 < 2 ^ 14 from Nat.mod_lt _ (by decide)), Nat.shiftLeft_eq]
    omega
  rw [encode, hword]
  exact hx

end Sys2Proof.Laws
end

