-- ==== Sys2Proof/Tests/Slice0.lean ====
section
/-! SUPPORT. The model's own tests: words and values from 95_test_vectors.md and from the rules they name, and for each
statement with hypotheses a state and operands that meet them. -/

namespace Sys2Proof.Tests

open Sys2Proof.Machine

/-! ### Well-formedness: a request that a port cannot carry is refused by each check -/

theorem test_wellFormed_lookup_needs_the_14_bit_port : (Instr.lookup 5).wellFormed 16 = false := by decide
theorem test_wellFormed_lookupx_needs_a_wide_port : (Instr.lookupx 5).wellFormed 14 = false := by decide
theorem test_wellFormed_lookupx_operand_fits_the_port : (Instr.lookupx 65536).wellFormed 16 = false := by decide
theorem test_wellFormed_accepts :
    (Instr.lookup 16383).wellFormed 14 = true ∧ (Instr.lookupx 65535).wellFormed 16 = true ∧
    (Instr.lookupx 32767).wellFormed 15 = true := by decide

/-! ### Decoding: words of 95_test_vectors.md section 3 (P1, P2, P3) -/

theorem test_decode_lookup_64 : decode 14 0b00000001000000 = .ok (.lookup 64) := by decide
theorem test_decode_lookup_1165 : decode 14 0b00010010001101 = .ok (.lookup 1165) := by decide
theorem test_decode_lookupx_in_domain : decode 16 0b0011111111111111 = .ok (.lookupx 0x3FFF) := by decide
theorem test_decode_lookupx_out_of_domain : decode 16 0b0100000000111111 = .ok (.lookupx 0x403F) := by decide
theorem test_decode_rejects_by_name :
    decode 14 16384 = .error (.wordTooWide 14 16384) ∧ decode 13 0 = .error (.portTooNarrow 13) := by decide
theorem test_encode : encode (.lookup 7716) = 0b01111000100100 ∧ encode (.lookupx 0x5E24) = 0x5E24 := by decide

/-! ### Values (95_test_vectors.md sections 2.1, 2.3, 2.7) -/

theorem test_val_ends : val 0 = 0x00 ∧ val 16383 = 0x00 ∧ val 16380 = 0x00 := by decide
theorem test_val_mask_matters : val 64 = 0x05 ∧ val 45 = 0x82 ∧ val 10 = 0x07 := by decide
theorem test_val_wide_index : val 4096 = 0x40 ∧ val 8196 = 0x81 ∧ val 12288 = 0xC0 := by decide
theorem test_val_sign_boundary : val 11584 = 0x89 ∧ val 11585 = 0x31 := by decide
theorem test_legacy : legacyByte 0x7892 = 0xAB ∧ legacyByte 0x1237 = 0xB5 ∧ legacyByte 0xABCF = 0x85 := by decide
theorem test_formIndex : formIndex 0x7890 = 7716 ∧ formIndex 0xABCD = 10995 ∧ formIndex 0xFFFF = 16383 := by decide

/-! ### States -/

/-- A block of width `pw`, CONSTANT mode, with two requesters: the first waits for the word `w`, the second has `calls`
to make. -/
def demo (pw w : Nat) (calls : List Call) (schedule : List Agent) : State where
  params := ⟨pw, .constant⟩
  table := []
  ready := true
  rst := false
  initializer := .absent
  requesters := [⟨[], some w, false⟩, ⟨calls, none, false⟩]
  serving := 0
  schedule := schedule
  observed := []

/-- A block in CONSTRUCTED mode whose CONSTRUCT is about to begin, with a request waiting. -/
def unbuilt (schedule : List Agent) : State where
  params := ⟨14, .constructed⟩
  table := []
  ready := false
  rst := false
  initializer := .building 0
  requesters := [⟨[], some 7, false⟩]
  serving := 0
  schedule := schedule
  observed := []

/-- The finished table as CONSTRUCTED mode holds it. -/
@[irreducible] def builtTable : Memory := (List.range 16384).map fun a => (a, valAt a)

theorem mem_builtTable (c : Host.Cell) : c ∈ builtTable ↔ c.1 < 16384 ∧ c.2 = valAt c.1 := by
  unfold builtTable
  rw [List.mem_map]
  constructor
  · rintro ⟨a, ha, rfl⟩
    exact ⟨List.mem_range.mp ha, rfl⟩
  · rintro ⟨hlt, hv⟩
    exact ⟨c.1, List.mem_range.mpr hlt, by rw [← hv]⟩

theorem builtTable_rising : builtTable.Pairwise fun c d => c.1 < d.1 := by
  unfold builtTable
  exact List.Pairwise.map _ (fun _ _ h => h) List.pairwise_lt_range

/-- A published block in CONSTRUCTED mode with the interface of `demo`. -/
def built (pw w : Nat) (calls : List Call) (schedule : List Agent) : State :=
  { demo pw w calls schedule with params := ⟨pw, .constructed⟩, table := builtTable, initializer := .done }

/-- The observation after an outcome, nothing where there is no next state. -/
def observedAfter (o : Host.Outcome State Fault Refusal) : Option (List Observation) := (nextState? o).map (·.observed)

/-! ### Single steps (95_test_vectors.md sections 2.2, 2.3 and programs P1 to P4) -/

theorem test_lookup_63 :
    observedAfter (exec (.lookup 63) (demo 14 63 [] [])) = some [⟨0, 63, .byte 0xFD⟩] := by decide
theorem test_lookup_8192 :
    observedAfter (exec (.lookup 8192) (demo 14 8192 [] [])) = some [⟨0, 8192, .byte 0x80⟩] := by decide
theorem test_lookupx_in_domain :
    observedAfter (exec (.lookupx 0x1E24) (demo 16 0x1E24 [] [])) = some [⟨0, 7716, .byte 0xAB⟩] := by decide
theorem test_lookupx_never_wraps :
    observedAfter (exec (.lookupx 0x403F) (demo 16 0x403F [] [])) = some [⟨0, 16447, .domainViolation 16447⟩] := by
  decide
theorem test_fault_marks_its_session_only :
    (nextState? (exec (.lookupx 0xFFFF) (demo 16 0xFFFF [] []))).map (·.requesters) =
      some [⟨[], none, true⟩, ⟨[], none, false⟩] := by decide
theorem test_held_request_waits :
    nextState? (step (unbuilt [.service 0])) = some (unbuilt []) := by decide
theorem test_requester_presents_decryptByteK :
    (nextState? (step (demo 14 63 [.decryptByteK 0x1235] [.requester 1]))).map (·.requesters) =
      some [⟨[], some 63, false⟩, ⟨[], some 1165, false⟩] := by decide
theorem test_requester_refuses_truncation :
    requesterStep 1 (demo 14 63 [.lookup 16384] []) = .refused (.notPresentable 16384) ∧
    requesterStep 1 (demo 14 63 [.lookup (-1)] []) = .refused (.notPresentable (-1)) := ⟨rfl, rfl⟩
theorem test_minus_one_on_a_wide_port : toOperand 16 (-1) = some 0xFFFF ∧ toOperand 15 (-1) = some 0x7FFF := by decide
theorem test_construct_iteration_4 :
    (initializerStep { unbuilt [] with initializer := .building 4 }).table = [(4, 0x01)] := by decide
theorem test_observation_of_each_requester :
    observedAfter (runSteps 2 { demo 16 63 [] [.service 1, .service 0] with
      requesters := [⟨[], some 63, false⟩, ⟨[], some 0x403F, false⟩] }) =
      some [⟨1, 0x403F, .domainViolation 0x403F⟩, ⟨0, 63, .byte 0xFD⟩] := by decide
theorem test_publish :
    (initializerStep { unbuilt [] with initializer := .building 16384 }).ready = true := by decide
theorem test_reset_starts_construct :
    (releaseReset (assertReset (built 14 7 [] []))).initializer = .building 0 ∧
    (assertReset (built 14 7 [] [])).requesters = [⟨[], none, false⟩, ⟨[], none, false⟩] := by decide
/-- An assertion of reset ends a CONSTRUCT that is still running (notes/assumptions/24.md). -/
theorem test_reset_ends_a_running_construct :
    (assertReset { unbuilt [] with initializer := .building 4 }).initializer = .inReset := by decide
theorem test_fetch_word_lookup :
    observedAfter (step (State.reset.withFetchWord 14 0b00000000111111)) = some [⟨0, 63, .byte 0xFD⟩] := by decide
theorem test_fetch_word_lookupx :
    observedAfter (step (State.reset.withFetchWord 16 0x403F)) = some [⟨0, 0x403F, .domainViolation 0x403F⟩] := by
  decide
theorem test_fetch_word_runs_the_request :
    step (State.reset.withFetchWord 14 7) =
      exec (.lookup 7) { State.reset with requesters := [⟨[], some 7, false⟩] } := rfl

/-! ### Witnesses: states that meet the hypotheses of the statements -/

theorem demo_cell (pw w : Nat) (calls : List Call) (sch : List Agent) (a : Nat) (ha : a < 16384) :
    (demo pw w calls sch).cell a = some (valAt a) := cell_of_constant_nil _ rfl rfl a ha

theorem demo_inv (pw w : Nat) (calls : List Call) (sch : List Agent) (hp : 14 ≤ pw) (hw : w < 2 ^ pw) :
    (demo pw w calls sch).Inv where
  port := hp
  canonical := Memory.wf_nil _
  phase := ⟨rfl, rfl⟩
  words := by simpa [demo] using hw
  responses := by simp [demo]
  marks := by simp [demo]

theorem unbuilt_inv (sch : List Agent) : (unbuilt sch).Inv where
  port := Nat.le_refl 14
  canonical := Memory.wf_nil _
  phase := ⟨by decide, rfl, rfl, fun a _ => by simp [cell_of_constructed_nil _ (show (unbuilt sch).params.initMode = _ from rfl) rfl]⟩
  words := by simp [unbuilt]
  responses := by simp [unbuilt]
  marks := by simp [unbuilt]

theorem builtTable_wf : Memory.wf .constructed builtTable :=
  ⟨builtTable_rising, fun c hc => ⟨((mem_builtTable c).mp hc).1, by simp [Memory.unlisted]⟩⟩

theorem built_cell (pw w : Nat) (calls : List Call) (sch : List Agent) (a : Nat) (ha : a < 16384) :
    (built pw w calls sch).cell a = some (valAt a) := by
  have hm : (a, valAt a) ∈ builtTable := (mem_builtTable (a, valAt a)).mpr ⟨ha, rfl⟩
  rw [State.cell, if_pos ha]
  exact ((Memory.mem_iff_read .constructed builtTable builtTable_wf (a, valAt a)).mp hm).1

theorem built_inv (pw w : Nat) (calls : List Call) (sch : List Agent) (hp : 14 ≤ pw) (hw : w < 2 ^ pw) :
    (built pw w calls sch).Inv where
  port := hp
  canonical := builtTable_wf
  phase := ⟨rfl, rfl, built_cell pw w calls sch⟩
  words := by simpa [built, demo] using hw
  responses := by simp [built, demo]
  marks := by simp [built, demo]

theorem demo_valueInvariant (pw w : Nat) (calls : List Call) (sch : List Agent) :
    (demo pw w calls sch).ValueInvariant := fun _ i => by
  rw [demo_cell _ _ _ _ _ i.isLt, valAt, BitVec.ofNat_toNat, BitVec.setWidth_eq]

/-- DecodeOfEncodeIsTheRequest, EncodeOfDecodeIsTheWord: both formats, at the ends of their ranges. -/
theorem witness_encoding :
    (Instr.lookup 16383).wellFormed 14 = true ∧ (Instr.lookupx 32767).wellFormed 15 = true ∧
    decode 14 0 = .ok (.lookup 0) ∧ decode 15 32767 = .ok (.lookupx 32767) ∧ decode 16 16384 = .ok (.lookupx 16384) := by
  decide

/-- EveryWordOfAPortIsOneRequest: each clause at the values where the clauses meet. -/
theorem witness_words :
    decode 14 16383 = .ok (.lookup 16383) ∧ decode 14 16384 = .error (.wordTooWide 14 16384) ∧
    decode 15 16384 = .ok (.lookupx 16384) ∧ decode 15 32768 = .error (.wordTooWide 15 32768) ∧
    decode 13 0 = .error (.portTooNarrow 13) := by decide

/-- IllegalWordsAreExactlyThoseAboveTheDomain: both sides of the bound on the reference port. -/
theorem witness_illegalWords :
    (demo 16 16384 [] []).ValueInvariant ∧ (demo 16 16384 [] []).readReady = true ∧
    fieldHi 16 16383 = 0 ∧ fieldHi 16 16384 = 1 ∧ fieldHi 15 32767 = 1 :=
  ⟨demo_valueInvariant _ _ _ _, rfl, by decide, by decide, by decide⟩

/-- StepRunsTheOutstandingRequest: an empty schedule, and one that names the requester. -/
theorem witness_step :
    (demo 14 63 [] []).requesters[0]? = some ⟨[], some 63, false⟩ ∧ decode 14 63 = .ok (.lookup 63) ∧
    (demo 14 63 [] []).schedule = [] ∧ (∀ k, (demo 14 63 [] []).initializer ≠ .building k) ∧
    (∀ j p, j < 0 → (demo 14 63 [] []).requesters[j]? = some p → p.waiting = none) ∧
    (demo 14 63 [] [.service 0]).schedule = [.service 0] :=
  ⟨rfl, by decide, rfl, fun _ => by simp [demo], fun _ _ h => absurd h (Nat.not_lt_zero _), rfl⟩

/-- PlacedWordIsRunByTheNextStep: a word of each format. -/
theorem witness_placedWord :
    decodeTableWord 14 7 = some (.lookup 7) ∧ decodeTableWord 16 0x4007 = some (.lookupx 0x4007) := by decide

/-- LookupAnswersValOfItsIndex, LookupxChecksItsOperandThenReads: a published block and an unbuilt one. -/
theorem witness_lookups :
    (demo 14 63 [] []).ValueInvariant ∧ (demo 14 63 [] []).readReady = true ∧ (unbuilt []).readReady = false ∧
    (demo 16 16384 [] []).ValueInvariant ∧ (demo 16 16384 [] []).readReady = true :=
  ⟨demo_valueInvariant _ _ _ _, rfl, rfl, demo_valueInvariant _ _ _ _, rfl⟩

/-- NoRequestWritesTheBlock: a request answered with a byte, one with a fault, and a step that does change a cell. -/
theorem witness_frame :
    (nextState? (exec (.lookup 63) (demo 14 63 [] []))).isSome ∧
    (nextState? (exec (.lookupx 16384) (demo 16 16384 [] []))).isSome ∧
    (nextState? (step (unbuilt []))).map (·.cell 0) = some (some (valAt 0)) ∧ (unbuilt []).cell 0 = none := by decide

/-- DomainViolationExactlyOutOfDomain, BlockServesNormallyAfterAFault: the first operand out of the domain, and a request
that is answered before the fault. -/
theorem witness_fault :
    (demo 16 16384 [] []).readReady = true ∧
    exec (.lookupx 16384) (demo 16 16384 [] []) = .next (raiseDomainViolation 16384 (demo 16 16384 [] [])) ∧
    exec (.lookupx 16383) { demo 16 16384 [] [] with serving := 1 } =
      .next ({ demo 16 16384 [] [] with serving := 1 }.afterResponse 16383 (.byte 0x00)) := ⟨rfl, rfl, rfl⟩

/-- ReadIsDefinedOnlyBehindReady: a published block and an unbuilt one, at the ends of the space. -/
theorem witness_read :
    (demo 14 63 [] []).ValueInvariant ∧ memRead 16383 (demo 14 63 [] []) = some 0x00 ∧
    memRead 16384 (demo 14 63 [] []) = none ∧ (unbuilt []).ValueInvariant ∧ memRead 0 (unbuilt []) = none :=
  ⟨demo_valueInvariant _ _ _ _, by decide, by decide, fun h => absurd h (by decide), by decide⟩

/-- RequestsAreHeldUntilPublication, HeldRequestIsAnsweredAfterPublication: CONSTRUCT at its start with a request
waiting; a published block whose schedule serves. -/
theorem witness_hold :
    (unbuilt [.service 0]).Inv ∧ (unbuilt [.service 0]).readReady = false ∧ (unbuilt []).Inv ∧
    (unbuilt (List.replicate 16385 .initializer)).Inv ∧
    (unbuilt []).initializer = .building 0 ∧ (unbuilt []).schedule = [] ∧
    (unbuilt []).requesters[0]? = some ⟨[], some 7, false⟩ ∧
    (∀ j p, j < 0 → (unbuilt []).requesters[j]? = some p → p.waiting = none) ∧
    (demo 14 63 [] [.service 0]).Inv ∧ (demo 14 63 [] [.service 0]).readReady = true ∧
    (demo 14 63 [] [.service 0]).params.initMode = .constant :=
  ⟨unbuilt_inv _, rfl, unbuilt_inv _, unbuilt_inv _, rfl, rfl, rfl, fun _ _ h => absurd h (Nat.not_lt_zero _),
    demo_inv _ _ _ _ (by decide) (by decide), rfl, rfl⟩

/-- ResponsesComeOnlyFromAPublishedTable: a step that gives a response. -/
theorem witness_response :
    (demo 14 63 [] []).Inv ∧ observedAfter (step (demo 14 63 [] [])) = some [⟨0, 63, .byte 0xFD⟩] ∧
    (demo 14 63 [] []).observed = [] := ⟨demo_inv _ _ _ _ (by decide) (by decide), by decide, rfl⟩

/-- PublishedTableNeverChanges: both outcomes, a served request and the assertion of reset in CONSTRUCTED mode. -/
theorem witness_published :
    (demo 14 63 [] []).Inv ∧ (demo 14 63 [] []).readReady = true ∧ (nextState? (step (demo 14 63 [] []))).isSome ∧
    (built 14 63 [] [.assertReset]).Inv ∧ (built 14 63 [] [.assertReset]).readReady = true ∧
    step (built 14 63 [] [.assertReset]) = .next (assertReset (built 14 63 [] [])) :=
  ⟨demo_inv _ _ _ _ (by decide) (by decide), rfl, by decide, built_inv _ _ _ _ (by decide) (by decide), rfl, rfl⟩

/-- ConstructWritesEachCellThenPublishes: the first iteration, the last, and the publication. -/
theorem witness_construct :
    (unbuilt []).params.initMode = .constructed ∧ (unbuilt []).initializer = .building 0 ∧ (unbuilt []).ready = false ∧
    (initializerStep { unbuilt [] with initializer := .building 16383 }).initializer = .building 16384 ∧
    (initializerStep { unbuilt [] with initializer := .building 16384 }).initializer = .done := by decide

/-- ConstructCompletesFromReset and the other statements that give the initializer its turns: such a list of turns. -/
theorem witness_turns :
    (List.replicate 16385 Agent.initializer).length = 16385 ∧
    ∀ a ∈ List.replicate 16385 Agent.initializer, a = .initializer :=
  ⟨List.length_replicate, fun _ h => List.eq_of_mem_replicate h⟩

/-- ConstructCompletesFromReset, ResetGivesTheStatedValues, InvariantHoldsAfterReset: blocks of both modes. -/
theorem witness_blocks :
    (BlockParams.mk 14 .constructed).initMode = .constructed ∧ (BlockParams.mk 14 .constant).initMode = .constant ∧
    14 ≤ (BlockParams.mk 14 .constructed).pw := by decide

/-- ConstructionOrderIsUnobservable, TwoConstructionsAgree: an order that is not the ascending one, an empty table and
a full one. -/
theorem witness_order :
    Memory.wf .constructed (unbuilt []).table ∧ (List.range 16384).reverse.Perm (List.range 16384) ∧
    Memory.wf .constructed (built 14 7 [] []).table :=
  ⟨Memory.wf_nil _, List.reverse_perm _, builtTable_wf⟩

/-- ResetChangesNothingInConstantMode: both edges. -/
theorem witness_reset_constant :
    (demo 14 63 [] [.assertReset]).Inv ∧ (demo 14 63 [] [.assertReset]).params.initMode = .constant ∧
    step (demo 14 63 [] [.assertReset]) = .next (assertReset (demo 14 63 [] [])) ∧
    step (demo 14 63 [] [.releaseReset]) = .next (demo 14 63 [] []) :=
  ⟨demo_inv _ _ _ _ (by decide) (by decide), rfl, rfl, rfl⟩

/-- AssertionOfResetAbandonsRequests: both edges, in both modes, with a request outstanding. -/
theorem witness_abandon :
    (nextState? (step (demo 14 63 [.lookup 7] [.assertReset]))).map (·.requesters) =
      some [⟨[], none, false⟩, ⟨[.lookup 7], none, false⟩] ∧
    (nextState? (step (built 14 63 [.lookup 7] [.assertReset]))).map (·.requesters) =
      some [⟨[], none, false⟩, ⟨[.lookup 7], none, false⟩] ∧
    (nextState? (step { demo 14 63 [] [.releaseReset] with rst := true })).map (·.rst) = some false := by decide

/-- ResetRebuildsTheTableInConstructedMode, its clause over any moves: under reset, and while CONSTRUCT runs, a requester
presents and is looked at, and gets no response. -/
theorem witness_no_response_before_publication :
    (nextState? (runSteps 5 { assertReset (built 14 63 [.lookup 7] []) with
      schedule := [.requester 1, .service 1, .releaseReset, .initializer, .service 1] })).map
        (fun t => (t.readReady, t.observed, t.requesters.map (·.waiting))) =
      some (false, [], [none, some 7]) := by decide

/-- ResetRebuildsTheTableInConstructedMode: a published block with a request outstanding, and one still building. -/
theorem witness_reset_constructed :
    (built 14 63 [] (.assertReset :: .releaseReset :: List.replicate 16385 .initializer)).Inv ∧
    (unbuilt (.assertReset :: .releaseReset :: List.replicate 16385 .initializer)).Inv ∧
    (built 14 63 [] []).params.initMode = .constructed :=
  ⟨built_inv _ _ _ _ (by decide) (by decide), unbuilt_inv _, rfl⟩

/-- EveryStepKeepsTheInvariant, EveryCellHoldsItsValueOncePublished: states of both modes that step. -/
theorem witness_invariant :
    (demo 14 63 [] []).Inv ∧ (nextState? (step (demo 14 63 [] []))).isSome ∧
    (unbuilt []).Inv ∧ (nextState? (step (unbuilt []))).isSome ∧ (built 16 0x403F [] []).Inv :=
  ⟨demo_inv _ _ _ _ (by decide) (by decide), by decide, unbuilt_inv _, by decide,
    built_inv _ _ _ _ (by decide) (by decide)⟩

/-- EveryResponseIsAFunctionOfItsOperand: a run that answers the last operand of the domain and the first out of it. -/
theorem witness_run :
    14 ≤ (BlockParams.mk 16 .constant).pw ∧
    observedAfter (runSteps 4 (State.loaded ⟨16, .constant⟩ [⟨[.lookup 16383, .lookup 16384], none, false⟩] [])) =
      some [⟨0, 16383, .byte 0x00⟩, ⟨0, 16384, .domainViolation 16384⟩] := by decide

/-- UnmarkedSessionsReceivedOnlyKeystream: beside a session that faults, one that does not and has its byte. -/
theorem witness_unmarked :
    (nextState? (runSteps 4 (State.loaded ⟨16, .constant⟩
      [⟨[.lookup (-1)], none, false⟩, ⟨[.decryptByteK 0x7890], none, false⟩] []))).map
        (fun t => (t.requesters, t.observed)) =
      some ([⟨[], none, true⟩, ⟨[], none, false⟩],
        [⟨0, 0xFFFF, .domainViolation 0xFFFF⟩, ⟨1, 7716, .byte 0xAB⟩]) ∧
    (formIndex 0x7890).toNat = 7716 := by decide

/-- StepStopsOnlyAtAnUnpresentableCall: a state that steps and one that stops. -/
theorem witness_stop :
    (demo 14 63 [.lookup (-1)] [.requester 1]).Inv ∧
    step (demo 14 63 [.lookup (-1)] [.requester 1]) = .refused (.notPresentable (-1)) :=
  ⟨demo_inv _ _ _ _ (by decide) (by decide), rfl⟩

/-- FaultMarkIsNeverCleared: a marked session through an assertion of reset. -/
theorem witness_mark :
    (nextState? (step { demo 16 63 [] [.assertReset] with requesters := [⟨[], some 5, true⟩] })).map (·.requesters) =
      some [⟨[], none, true⟩] := by decide

/-- InitialisationModesAreIndistinguishable: a CONSTANT block and a CONSTRUCTED one. -/
theorem witness_modes :
    (demo 14 63 [] []).SameInterface (built 14 63 [] []) ∧ Agent.assertReset ∉ (demo 14 63 [] []).schedule ∧
    observedAfter (runSteps 1 (demo 14 63 [] [])) = some [⟨0, 63, .byte 0xFD⟩] :=
  ⟨⟨demo_inv _ _ _ _ (by decide) (by decide), built_inv _ _ _ _ (by decide) (by decide), rfl, rfl, rfl, rfl, rfl, rfl,
    rfl⟩, by decide, by decide⟩

/-- RequestersDoNotInteract: two requesters waiting, one of them out of domain. -/
theorem witness_two_requesters :
    ({ demo 16 63 [] [] with requesters := [⟨[], some 63, false⟩, ⟨[], some 0x403F, false⟩] } : State).Inv :=
  ⟨by decide, Memory.wf_nil _, ⟨rfl, rfl⟩, by simp [demo], by simp [demo], by simp [demo]⟩

/-- RequesterWaitsForEachResponse, DecryptByteGivesTheLegacyByte: a requester that waits and one that presents, neither
marked. -/
theorem witness_requester :
    (demo 14 63 [.lookup 7] []).requesters[0]? = some ⟨[], some 63, false⟩ ∧
    (demo 14 63 [.lookup 7] []).requesters[1]? = some ⟨[.lookup 7], none, false⟩ ∧
    toOperand 14 (Call.lookup 7).value = some 7 := by decide

/-- IntegersAreNeverTruncatedToAnIndex: the ends of the ranges. -/
theorem witness_integers :
    toOperand 14 16383 = some 16383 ∧ toOperand 14 16384 = none ∧ toOperand 15 (-16384) = some 16384 ∧
    toOperand 15 (-16385) = none ∧ toOperand 15 32767 = some 32767 ∧ toOperand 15 32768 = none := by decide

/-- DecryptByteGivesTheLegacyByte: both calls, on a narrow port and on a wide one. -/
theorem witness_decryptByte :
    (demo 14 63 [.decryptByteK 0x1234] [.requester 1, .service 1]).Inv ∧
    (demo 16 63 [.decryptByte 0x7892] [.requester 1, .service 1]).Inv ∧
    observedAfter (runSteps 2 (demo 14 63 [.decryptByteK 0x1234] [.requester 1, .service 1])) =
      some [⟨1, 1165, .byte 0xB5⟩] ∧
    observedAfter (runSteps 2 (demo 16 63 [.decryptByte 0x7892] [.requester 1, .service 1])) =
      some [⟨1, 7716, .byte 0xAB⟩] ∧
    (0x7892 : Working).getLsbD 1 = true :=
  ⟨demo_inv _ _ _ _ (by decide) (by decide), demo_inv _ _ _ _ (by decide) (by decide), by decide, by decide, by decide⟩

/-- The arithmetic statements: an index, a bit, a width, a working value with bit 1 set and each value of bit 0. -/
theorem witness_arithmetic :
    (0x1237 : Working).getLsbD 1 = true ∧ (0x1237 : Working).getLsbD 0 = true ∧ (0x1236 : Working).getLsbD 0 = false ∧
    ((0x123 : Product).getLsbD 8 = (0x1FF : Product).getLsbD 8) ∧ (1 : Index) ≠ 0 ∧ 8191 < 8192 := by decide

end Sys2Proof.Tests
end

/-! PROOFS. The invariant of the machine is kept by every operation, hence by every step and every run; what a published
state that meets it holds; every response of every run is a function of its operand. -/

namespace Sys2Proof.Machine

/-! ### The phases, by the initializer's state -/

theorem phase_absent_iff {s : State} (hi : s.initializer = .absent) :
    s.Phase ↔ s.params.initMode = .constant ∧ s.table = [] ∧ s.ready = true := by
  cases hm : s.params.initMode <;> simp [State.Phase, hm, hi]

theorem phase_inReset_iff {s : State} (hi : s.initializer = .inReset) :
    s.Phase ↔ s.params.initMode = .constructed ∧ s.table = [] ∧ s.ready = false ∧ s.rst = true := by
  cases hm : s.params.initMode <;> simp [State.Phase, hm, hi]

theorem phase_building_iff {s : State} {i : Nat} (hi : s.initializer = .building i) :
    s.Phase ↔ s.params.initMode = .constructed ∧ i ≤ 16384 ∧ s.ready = false ∧ s.rst = false ∧
      ∀ a, a < 16384 → s.cell a = if a < i then some (valAt a) else none := by
  cases hm : s.params.initMode <;> simp [State.Phase, hm, hi]

theorem phase_done_iff {s : State} (hi : s.initializer = .done) :
    s.Phase ↔ s.params.initMode = .constructed ∧ s.ready = true ∧ s.rst = false ∧
      ∀ a, a < 16384 → s.cell a = some (valAt a) := by
  cases hm : s.params.initMode <;> simp [State.Phase, hm, hi]

/-- The only initializer of CONSTANT mode has no step (R79), and then nothing is listed and READY is stored as 1. -/
theorem phase_constant_iff {s : State} (hm : s.params.initMode = .constant) :
    s.Phase ↔ s.initializer = .absent ∧ s.table = [] ∧ s.ready = true := by
  cases hi : s.initializer <;> simp [State.Phase, hm, hi]

/-- `Phase` speaks of the five fields of the block alone. -/
theorem phase_congr {s t : State} (hp : t.params = s.params) (ht : t.table = s.table) (hr : t.ready = s.ready)
    (hrst : t.rst = s.rst) (hi : t.initializer = s.initializer) : t.Phase ↔ s.Phase := by
  simp only [State.Phase, hp, ht, hr, hrst, hi, cell_congr s t hp ht]

/-- R15, R42: where READY reads 1, every cell holds its value. -/
theorem State.Phase.cell_of_ready {s : State} (h : s.Phase) (hr : s.readReady = true) (a : Nat) (ha : a < 16384) :
    s.cell a = some (valAt a) := by
  cases hi : s.initializer with
  | absent =>
    obtain ⟨hm, ht, -⟩ := (phase_absent_iff hi).mp h
    exact cell_of_constant_nil s hm ht a ha
  | inReset =>
    obtain ⟨hm, -, hready, -⟩ := (phase_inReset_iff hi).mp h
    simp [readReady_of_constructed s hm, hready] at hr
  | building i =>
    obtain ⟨hm, -, hready, -⟩ := (phase_building_iff hi).mp h
    simp [readReady_of_constructed s hm, hready] at hr
  | done =>
    obtain ⟨-, -, -, hc⟩ := (phase_done_iff hi).mp h
    exact hc a ha

/-! ### The initializer and reset keep the phase and the canonical form -/

theorem cell_constructIteration_same (s : State) {i : Nat} (hi : i < 16384) :
    (constructIteration i s).cell i = some (valAt i) := cell_memWrite_same s i (valAt i) hi

theorem cell_constructIteration_other (s : State) {i a : Nat} (h : a ≠ i) :
    (constructIteration i s).cell a = s.cell a := cell_memWrite_other s i a (valAt i) h

theorem phase_initializerStep {s : State} (h : s.Phase) : (initializerStep s).Phase := by
  rcases initializerStep_cases s with ⟨-, hs⟩ | ⟨i, hi, hlt, hs⟩ | ⟨i, hi, hge, hs⟩ <;> rw [hs]
  · exact h
  · obtain ⟨hm, -, hready, hrst, hc⟩ := (phase_building_iff hi).mp h
    refine (phase_building_iff rfl).mpr ⟨hm, hlt, hready, hrst, fun a ha => ?_⟩
    rw [cell_setInitializer]
    by_cases hai : a = i
    · rw [hai, cell_constructIteration_same s hlt, if_pos (by omega)]
    · rw [cell_constructIteration_other s hai, hc a ha]
      exact if_congr (by omega) rfl rfl
  · obtain ⟨hm, -, -, hrst, hc⟩ := (phase_building_iff hi).mp h
    have hpub : (publish s).ready = true := by
      rw [← readReady_of_constructed (publish s) (by simpa using hm), readReady_publish]
    refine (phase_done_iff rfl).mpr ⟨by simpa using hm, hpub, by simpa using hrst, fun a ha => ?_⟩
    rw [cell_publish, hc a ha, if_pos (by omega)]

theorem initializerStep_table_wf {s : State} (h : Memory.wf s.params.initMode s.table) :
    Memory.wf s.params.initMode (initializerStep s).table := by
  rcases initializerStep_cases s with ⟨-, hs⟩ | ⟨i, -, hlt, hs⟩ | ⟨i, -, -, hs⟩ <;> rw [hs]
  · exact h
  · exact Memory.write_wf _ _ _ _ hlt h
  · rwa [publish_table]

theorem assertReset_of_constant {s : State} (hm : s.params.initMode = .constant) :
    assertReset s = { s with rst := true, requesters := s.requesters.map Requester.abandoned } := by
  simp [assertReset, hm]

theorem assertReset_of_constructed {s : State} (hm : s.params.initMode = .constructed) :
    assertReset s = { s with rst := true, requesters := s.requesters.map Requester.abandoned
                             ready := false, table := [], initializer := .inReset } := by
  simp [assertReset, hm]

theorem phase_assertReset {s : State} (h : s.Phase) : (assertReset s).Phase := by
  cases hm : s.params.initMode with
  | constant =>
    have hm' : (assertReset s).params.initMode = .constant := by rwa [assertReset_params]
    exact (phase_constant_iff hm').mpr (by rw [assertReset_of_constant hm]; exact (phase_constant_iff hm).mp h)
  | constructed =>
    rw [assertReset_of_constructed hm]
    exact (phase_inReset_iff rfl).mpr ⟨hm, rfl, rfl, rfl⟩

theorem assertReset_table_wf {s : State} (h : Memory.wf s.params.initMode s.table) :
    Memory.wf s.params.initMode (assertReset s).table := by
  cases hm : s.params.initMode with
  | constant => rw [assertReset_of_constant hm, ← hm]; exact h
  | constructed => rw [assertReset_of_constructed hm]; exact Memory.wf_nil _

theorem releaseReset_of_not_asserted {s : State} (hrst : s.rst = false) : releaseReset s = s := by
  simp [releaseReset, hrst]

theorem releaseReset_of_constant {s : State} (hrst : s.rst = true) (hm : s.params.initMode = .constant) :
    releaseReset s = { s with rst := false } := by
  simp [releaseReset, hrst, hm]

theorem releaseReset_of_constructed {s : State} (hrst : s.rst = true) (hm : s.params.initMode = .constructed) :
    releaseReset s = { s with rst := false, initializer := .building 0 } := by
  simp [releaseReset, hrst, hm]

/-- In CONSTRUCTED mode reset is asserted only while the initializer waits for its release, and CONSTRUCT then starts
from a table in which no cell holds a value (R117). -/
theorem State.Phase.of_asserted {s : State} (h : s.Phase) (hrst : s.rst = true)
    (hm : s.params.initMode = .constructed) : s.table = [] ∧ s.ready = false := by
  cases hi : s.initializer with
  | absent => simp [(phase_absent_iff hi).mp h] at hm
  | inReset =>
    obtain ⟨-, ht, hready, -⟩ := (phase_inReset_iff hi).mp h
    exact ⟨ht, hready⟩
  | building i => simp [(phase_building_iff hi).mp h] at hrst
  | done => simp [(phase_done_iff hi).mp h] at hrst

theorem phase_releaseReset {s : State} (h : s.Phase) : (releaseReset s).Phase := by
  cases hrst : s.rst with
  | false => rwa [releaseReset_of_not_asserted hrst]
  | true =>
    cases hm : s.params.initMode with
    | constant =>
      have hm' : (releaseReset s).params.initMode = .constant := by rwa [releaseReset_params]
      exact (phase_constant_iff hm').mpr (by rw [releaseReset_of_constant hrst hm]; exact (phase_constant_iff hm).mp h)
    | constructed =>
      obtain ⟨ht, hready⟩ := h.of_asserted hrst hm
      rw [releaseReset_of_constructed hrst hm]
      exact (phase_building_iff rfl).mpr ⟨hm, Nat.zero_le _, hready, rfl,
        fun a _ => by simp [cell_of_constructed_nil { s with rst := false, initializer := .building 0 } hm ht]⟩

/-! ### Outstanding words and marks, by what happens to the list of requesters -/

/-- Every outstanding request is a word of a port of width `pw` (R50, R51): the field `words` of the invariant. -/
def WordsFit (pw : Nat) (l : List Requester) : Prop := ∀ q ∈ l, ∀ w, q.waiting = some w → w < 2 ^ pw

/-- Every marked session of the list `l` is marked in `l'` (R106). -/
def MarksKept (l l' : List Requester) : Prop :=
  ∀ (r : Nat) (q : Requester), l[r]? = some q → q.faulted = true → ∃ p, l'[r]? = some p ∧ p.faulted = true

theorem State.Inv.wordsFit {s : State} (h : s.Inv) : WordsFit s.params.pw s.requesters := h.words

theorem marksKept_refl (l : List Requester) : MarksKept l l := fun _ q hq hf => ⟨q, hq, hf⟩

theorem wordsFit_modify {pw : Nat} {l : List Requester} (h : WordsFit pw l) (r : Nat) (f : Requester → Requester)
    (hf : ∀ q, (f q).waiting = none) : WordsFit pw (l.modify r f) := by
  intro q hq w hw
  obtain ⟨j, hj⟩ := List.mem_iff_getElem?.mp hq
  rw [List.getElem?_modify] at hj
  obtain ⟨p, hp, rfl⟩ := Option.map_eq_some_iff.mp hj
  by_cases hrj : r = j
  · simp [hrj, hf] at hw
  · exact h p (List.mem_of_getElem? hp) w (by simpa [hrj] using hw)

theorem marksKept_modify (l : List Requester) (r : Nat) (f : Requester → Requester)
    (hf : ∀ q, q.faulted = true → (f q).faulted = true) : MarksKept l (l.modify r f) := by
  intro j q hq hm
  rw [List.getElem?_modify, hq]
  refine ⟨_, rfl, ?_⟩
  by_cases hrj : r = j
  · simpa [hrj] using hf q hm
  · simpa [hrj] using hm

theorem wordsFit_abandoned (pw : Nat) (l : List Requester) : WordsFit pw (l.map Requester.abandoned) := by
  intro q hq w hw
  obtain ⟨p, -, rfl⟩ := List.mem_map.mp hq
  simp at hw

theorem marksKept_abandoned (l : List Requester) : MarksKept l (l.map Requester.abandoned) :=
  fun _ q hq hf => ⟨q.abandoned, by simp [hq], hf⟩

theorem wordsFit_set {pw : Nat} {l : List Requester} (h : WordsFit pw l) (r : Nat) (p : Requester)
    (hp : ∀ w, p.waiting = some w → w < 2 ^ pw) : WordsFit pw (l.set r p) := by
  intro q hq
  rcases List.mem_or_eq_of_mem_set hq with hq | rfl
  · exact h q hq
  · exact hp

theorem marksKept_set {l : List Requester} {r : Nat} {q p : Requester} (hq : l[r]? = some q)
    (hf : p.faulted = q.faulted) : MarksKept l (l.set r p) := by
  intro j q' hq' hm
  by_cases hrj : r = j
  · subst hrj
    obtain rfl : q = q' := Option.some.inj (hq.symm.trans hq')
    exact ⟨p, by simp [(List.getElem?_eq_some_iff.mp hq).1], hf.trans hm⟩
  · exact ⟨q', by rw [List.getElem?_set_ne hrj, hq'], hm⟩

/-- R70: an integer that can be presented is presented as a word of the port. -/
theorem toOperand_lt {pw : Nat} {v : Int} {w : Nat} (h : toOperand pw v = some w) : w < 2 ^ pw := by
  unfold toOperand at h
  split at h
  next hpw =>
    obtain ⟨idx, -, rfl⟩ := Option.map_eq_some_iff.mp h
    rw [hpw]
    exact idx.isLt
  next =>
    split at h
    next =>
      obtain rfl := Option.some.inj h
      have hpos : 0 < ((2 ^ pw : Nat) : Int) := by exact_mod_cast Nat.two_pow_pos pw
      exact (Int.toNat_lt (Int.emod_nonneg _ hpos.ne')).mpr (Int.emod_lt_of_pos _ hpos)
    next => cases h

/-! ### Every operation keeps the invariant -/

theorem expectedResponse_of_lt {x : Nat} (h : x < 16384) : expectedResponse x = .byte (valAt x) := if_pos h

theorem expectedResponse_of_ge {x : Nat} (h : 16384 ≤ x) : expectedResponse x = .domainViolation x :=
  if_neg (Nat.not_lt.mpr h)

/-- What an operation without a response has to keep. -/
theorem State.Inv.of_no_response {s t : State} (h : s.Inv) (hp : t.params = s.params)
    (hwf : Memory.wf s.params.initMode t.table) (hph : t.Phase) (hw : WordsFit s.params.pw t.requesters)
    (hm : MarksKept s.requesters t.requesters) (ho : t.observed = s.observed) : t.Inv where
  port := hp ▸ h.port
  canonical := by rwa [hp]
  phase := hph
  words := by rw [hp]; exact hw
  responses := ho ▸ h.responses
  marks o hmem herr := by
    obtain ⟨q, hq, hf⟩ := h.marks o (ho ▸ hmem) herr
    exact hm _ q hq hf

/-- A response leaves the block as it is: the new one has to be the one of its operand, and to mark its session if it is
a fault. -/
theorem State.Inv.of_response {s t : State} (h : s.Inv) (o : Observation) (f : Requester → Requester)
    (ht : t = { s with observed := s.observed ++ [o], requesters := s.requesters.modify s.serving f })
    (hwait : ∀ q, (f q).waiting = none) (hmark : ∀ q, q.faulted = true → (f q).faulted = true)
    (hout : o.outcome = expectedResponse o.operand)
    (hnew : o.outcome.err = true → ∃ q, t.requesters[o.requester]? = some q ∧ q.faulted = true) : t.Inv := by
  have hkept : MarksKept s.requesters t.requesters := by rw [ht]; exact marksKept_modify _ _ f hmark
  have hobs : ∀ o' ∈ t.observed, o' ∈ s.observed ∨ o' = o := by rw [ht]; simp
  refine ⟨?_, ?_, ?_, ?_, fun o' hmem => ?_, fun o' hmem herr => ?_⟩
  · rw [ht]; exact h.port
  · rw [ht]; exact h.canonical
  · rw [ht]; exact (phase_congr rfl rfl rfl rfl rfl).mpr h.phase
  · rw [ht]; exact wordsFit_modify h.words _ f hwait
  · rcases hobs o' hmem with hold | rfl
    · exact h.responses o' hold
    · exact hout
  · rcases hobs o' hmem with hold | rfl
    · obtain ⟨q, hq, hf⟩ := h.marks o' hold herr
      exact hkept _ q hq hf
    · exact hnew herr

theorem inv_respondByte {s : State} (h : s.Inv) (x : Nat) (hx : x < 16384) : (respondByte x (valAt x) s).Inv :=
  h.of_response ⟨s.serving, x, .byte (valAt x)⟩ Requester.answered rfl (fun _ => rfl) (fun _ hf => hf)
    (expectedResponse_of_lt hx).symm (by simp [Response.err])

theorem inv_raiseDomainViolation {s : State} (h : s.Inv) (x : Nat) (hx : 16384 ≤ x) (q : Requester)
    (hq : s.requesters[s.serving]? = some q) : (raiseDomainViolation x s).Inv :=
  h.of_response ⟨s.serving, x, .domainViolation x⟩ Requester.failed rfl (fun _ => rfl) (fun _ _ => rfl)
    (expectedResponse_of_ge hx).symm (fun _ => ⟨q.failed, by simp [hq], rfl⟩)

/-- The schedule and the requester being served are no part of what the invariant says. -/
theorem State.Inv.with_turn {s : State} (h : s.Inv) (r : Nat) (rest : List Agent) :
    State.Inv { s with serving := r, schedule := rest } :=
  h.of_no_response rfl h.canonical ((phase_congr rfl rfl rfl rfl rfl).mpr h.phase) h.words (marksKept_refl _) rfl

/-- A request served for a requester that exists keeps the invariant: a held one changes nothing, the cell that is read
holds `VAL` since READY is 1, and a fault marks the session it goes to. -/
theorem inv_exec {s t : State} (h : s.Inv) (i : Instr) (q : Requester) (hq : s.requesters[s.serving]? = some q)
    (hx : exec i s = .next t) : t.Inv := by
  rcases exec_cases i s t hx with ⟨-, rfl⟩ | ⟨hr, hlt, d, hd, rfl⟩ | ⟨-, hge, rfl⟩
  · exact h
  · obtain rfl : valAt (operandOf i) = d := Option.some.inj ((h.phase.cell_of_ready hr _ hlt).symm.trans hd)
    exact inv_respondByte h _ hlt
  · exact inv_raiseDomainViolation h _ hge q hq

theorem inv_initializerStep {s : State} (h : s.Inv) : (initializerStep s).Inv :=
  h.of_no_response (by simp) (initializerStep_table_wf h.canonical) (phase_initializerStep h.phase)
    (by simpa using h.wordsFit) (by simpa using marksKept_refl s.requesters) (by simp)

theorem inv_requesterStep {s t : State} (h : s.Inv) (r : Nat) (hs : requesterStep r s = .next t) : t.Inv := by
  rcases requesterStep_cases r s t hs with rfl | ⟨q, c, rest, w, hq, -, -, hw, rfl⟩
  · exact h
  · refine h.of_no_response rfl h.canonical ((phase_congr rfl rfl rfl rfl rfl).mpr h.phase)
      (wordsFit_set h.words r _ fun w' hw' => ?_) (marksKept_set hq rfl) rfl
    obtain rfl : w = w' := Option.some.inj hw'
    exact toOperand_lt hw

theorem inv_assertReset {s : State} (h : s.Inv) : (assertReset s).Inv :=
  h.of_no_response (by simp) (assertReset_table_wf h.canonical) (phase_assertReset h.phase)
    (by simpa using wordsFit_abandoned _ s.requesters) (by simpa using marksKept_abandoned s.requesters) (by simp)

theorem inv_releaseReset {s : State} (h : s.Inv) : (releaseReset s).Inv :=
  h.of_no_response (by simp) (by simpa using h.canonical) (phase_releaseReset h.phase)
    (by simpa using h.wordsFit) (by simpa using marksKept_refl s.requesters) (by simp)

/-! ### Steps and runs -/

theorem inv_step {s t : State} (h : s.Inv) (hs : step s = .next t) : t.Inv := by
  obtain ⟨rest, u, rfl, hu⟩ := step_cases s t hs
  have hturn (r : Nat) : State.Inv { s with serving := r, schedule := rest } := h.with_turn r rest
  have hpicked : State.Inv { s with schedule := rest } := hturn s.serving
  rcases hu with rfl | ⟨r, i, q, w, hq, -, -, hx⟩ | rfl | ⟨r, hr⟩ | rfl | rfl
  · exact hpicked
  · exact inv_exec (hturn r) i q hq hx
  · exact inv_initializerStep hpicked
  · exact inv_requesterStep hpicked r hr
  · exact inv_assertReset hpicked
  · exact inv_releaseReset hpicked

theorem inv_runSteps (k : Nat) {s t : State} (h : s.Inv) (hk : runSteps k s = .next t) : t.Inv := by
  induction k generalizing s with
  | zero =>
    cases hk
    exact h
  | succ k ih =>
    rw [runSteps] at hk
    split at hk
    next u hu => exact ih (inv_step h hu) hk
    next => cases hk
    next => cases hk

theorem phase_resetOf (p : BlockParams) : (State.resetOf p).Phase := by
  cases hm : p.initMode with
  | constant => exact (phase_constant_iff hm).mpr (by simp [hm])
  | constructed =>
    have hi : (State.resetOf p).initializer = .building 0 := by simp [hm]
    exact (phase_building_iff hi).mpr ⟨hm, Nat.zero_le _, by simp [hm], rfl,
      fun a _ => by simp [cell_of_constructed_nil (State.resetOf p) hm rfl]⟩

/-- A reset block loaded with requesters that wait for nothing meets the invariant. -/
theorem inv_loaded (p : BlockParams) (requesters : List Requester) (schedule : List Agent) (hpw : 14 ≤ p.pw)
    (hidle : ∀ q ∈ requesters, q.waiting = none) : (State.loaded p requesters schedule).Inv where
  port := hpw
  canonical := resetOf_table_wf p
  phase := (phase_congr rfl rfl rfl rfl rfl).mpr (phase_resetOf p)
  words q hq w hw := by simp [hidle q hq] at hw
  responses := by simp
  marks := by simp

/-! ### The obligation -/

/-- Settles O28: the invariant holds of the loaded block and along every run from it, and it says that every response is
the one of its operand. -/
theorem everyResponseIsAFunctionOfItsOperand : Obligations.EveryResponseIsAFunctionOfItsOperand := by
  intro p requesters schedule k t hpw hidle hrun o ho
  have hinv : t.Inv := inv_runSteps k (inv_loaded p requesters schedule hpw hidle) hrun
  have hout : o.outcome = expectedResponse o.operand := hinv.responses o ho
  exact ⟨fun hlt => hout.trans (expectedResponse_of_lt hlt), fun hge => hout.trans (expectedResponse_of_ge hge)⟩

end Sys2Proof.Machine

/-! PROOFS. TABLE and READY (10_state.md): their values after reset and after CONSTRUCT, the value invariant of a
published block, and that nothing but an assertion of reset in CONSTRUCTED mode ends what was published. -/

namespace Sys2Proof.Machine

/-! ### VAL over the natural numbers (R15) -/

/-- An index widened to 16 bits and shifted by two loses no bit (R82). -/
theorem toNat_widened_shift (i : Index) : (i.setWidth 16 <<< 2).toNat = i.toNat <<< 2 := by
  have hi : i.toNat < 16384 := i.isLt
  rw [BitVec.toNat_shiftLeft, BitVec.toNat_setWidth_of_le (by decide), Nat.shiftLeft_eq]
  exact Nat.mod_eq_of_lt (by omega)

theorem toNat_factorA (i : Index) : (factorA i).toNat = i.toNat <<< 2 ||| 0b11 := by
  rw [factorA, BitVec.toNat_or, toNat_widened_shift]
  rfl

theorem toNat_factorB (i : Index) : (factorB i).toNat = i.toNat <<< 2 ||| 0b10 := by
  rw [factorB, BitVec.toNat_or, toNat_widened_shift]
  rfl

/-- The product of two 16-bit values is exact in 32 bits. -/
theorem toNat_mul32 (a b : Working) : (mul32 a b).toNat = a.toNat * b.toNat := by
  have hlt : a.toNat * b.toNat < 2 ^ 16 * 2 ^ 16 := Nat.mul_lt_mul'' a.isLt b.isLt
  rw [mul32, BitVec.toNat_mul, BitVec.toNat_setWidth_of_le (by decide), BitVec.toNat_setWidth_of_le (by decide)]
  exact Nat.mod_eq_of_lt hlt

theorem toNat_bits15to8 (p : Product) : (bits15to8 p).toNat = p.toNat >>> 8 &&& 0xFF := by
  have hle : p.toNat >>> 8 &&& 0xFF ≤ 0xFF := Nat.and_le_right
  rw [bits15to8, BitVec.toNat_setWidth, BitVec.toNat_and, BitVec.toNat_ushiftRight]
  exact Nat.mod_eq_of_lt (Nat.lt_succ_of_le hle)

theorem toNat_val (i : Index) : (val i).toNat = ((factorA i).toNat * (factorB i).toNat) >>> 8 &&& 0xFF := by
  rw [val, toNat_bits15to8, toNat_mul32]

@[simp] theorem valAt_toNat (i : Index) : valAt i.toNat = val i := by
  rw [valAt, BitVec.ofNat_toNat, BitVec.setWidth_eq]

theorem State.Inv.valueInvariant {s : State} (h : s.Inv) : s.ValueInvariant := fun hr i => by
  rw [← valAt_toNat]
  exact h.phase.cell_of_ready hr i.toNat i.isLt

/-! ### CONSTRUCT as one event -/

/-- The writes of a list of addresses leave `VAL` in every cell of the list and the other cells as they were, whatever
the order. -/
theorem cell_writeCells (order : List Nat) (s : State) {a : Nat} (ha : a < 16384) :
    (writeCells order s).cell a = if a ∈ order then some (valAt a) else s.cell a := by
  induction order generalizing s with
  | nil => rfl
  | cons i rest ih =>
    have hcons : writeCells (i :: rest) s = writeCells rest (constructIteration i s) := rfl
    rw [hcons, ih]
    by_cases hai : a = i
    · subst hai
      simp [cell_constructIteration_same s ha]
    · simp [hai, cell_constructIteration_other s hai]

@[simp] theorem readReady_construct (s : State) : (construct s).readReady = true := readReady_publish _

theorem cell_construct (s : State) {a : Nat} (ha : a < 16384) : (construct s).cell a = some (valAt a) := by
  rw [construct, cell_publish, cell_writeCells _ s ha, if_pos (List.mem_range.mpr ha)]

/-! ### One step, by the agent that moves -/

/-- The service of a requester finds nothing to serve, or runs a request for it. -/
theorem step_service_cases {s t s' : State} {r : Nat} (hp : pickAgent s = (.service r, t)) (hs : step s = .next s') :
    s' = t ∨ ∃ i, exec i { t with serving := r } = .next s' := by
  rw [step, hp] at hs
  cases hf : fetch r t with
  | nothing => exact .inl (by simpa [hf] using hs.symm)
  | request i u =>
    obtain ⟨-, -, -, -, -, rfl⟩ := fetch_request r t u i hf
    exact .inr ⟨i, by simpa [hf] using hs⟩
  | stop why => simp [hf] at hs

theorem step_initializer {s t : State} (hp : pickAgent s = (.initializer, t)) :
    step s = .next (initializerStep t) := by
  simp [step, hp]

theorem step_requester {s t : State} {r : Nat} (hp : pickAgent s = (.requester r, t)) :
    step s = requesterStep r t := by
  simp [step, hp]

theorem step_assertReset {s t : State} (hp : pickAgent s = (.assertReset, t)) : step s = .next (assertReset t) := by
  simp [step, hp]

theorem step_releaseReset {s t : State} (hp : pickAgent s = (.releaseReset, t)) :
    step s = .next (releaseReset t) := by
  simp [step, hp]

theorem step_idle {s t : State} (hp : pickAgent s = (.idle, t)) : step s = .next t := by
  simp [step, hp]

/-! ### What leaves TABLE and READY as they are -/

/-- No cell and not READY differs between `s` and `t`. -/
def SameTableAndReady (s t : State) : Prop := t.cell = s.cell ∧ t.readReady = s.readReady

theorem sameTableAndReady_refl (s : State) : SameTableAndReady s s := ⟨rfl, rfl⟩

/-- Whoever is served and whoever moves next, TABLE and READY read the same. -/
theorem sameTableAndReady_of_turn {s t : State} (r : Nat) (rest : List Agent)
    (h : SameTableAndReady { s with serving := r, schedule := rest } t) : SameTableAndReady s t := h

/-- R67: no request writes the block. -/
theorem sameTableAndReady_exec {i : Instr} {s t : State} (hx : exec i s = .next t) : SameTableAndReady s t := by
  rcases exec_cases i s t hx with ⟨-, rfl⟩ | ⟨-, -, d, -, rfl⟩ | ⟨-, -, rfl⟩
  · exact sameTableAndReady_refl _
  · exact ⟨cell_respondByte _ d s, readReady_respondByte _ d s⟩
  · exact ⟨cell_raiseDomainViolation _ s, readReady_raiseDomainViolation _ s⟩

theorem sameTableAndReady_requesterStep {r : Nat} {s t : State} (h : requesterStep r s = .next t) :
    SameTableAndReady s t := by
  rcases requesterStep_cases r s t h with rfl | ⟨q, c, rest, w, -, -, -, -, rfl⟩
  · exact sameTableAndReady_refl _
  · exact ⟨cell_congr _ _ rfl rfl, readReady_congr _ _ rfl rfl⟩

theorem sameTableAndReady_releaseReset (s : State) : SameTableAndReady s (releaseReset s) :=
  ⟨cell_releaseReset s, readReady_releaseReset s⟩

/-- R116: in CONSTANT mode the assertion of reset is no exception. -/
theorem sameTableAndReady_assertReset_of_constant {s : State} (hm : s.params.initMode = .constant) :
    SameTableAndReady s (assertReset s) := by
  rw [assertReset_of_constant hm]
  exact ⟨cell_congr _ _ rfl rfl, readReady_congr _ _ rfl rfl⟩

/-! ### The published table -/

/-- A running CONSTRUCT has not published (R77). -/
theorem State.Phase.not_building_of_ready {s : State} (h : s.Phase) (hr : s.readReady = true) (i : Nat) :
    s.initializer ≠ .building i := by
  intro hi
  obtain ⟨hm, -, hready, -⟩ := (phase_building_iff hi).mp h
  simp [readReady_of_constructed s hm, hready] at hr

/-- R18: the only writer of cells has no step once it has published. -/
theorem initializerStep_of_ready {s : State} (h : s.Phase) (hr : s.readReady = true) : initializerStep s = s := by
  rcases initializerStep_cases s with ⟨-, hs⟩ | ⟨i, hi, -⟩ | ⟨i, hi, -⟩
  · exact hs
  · exact absurd hi (h.not_building_of_ready hr i)
  · exact absurd hi (h.not_building_of_ready hr i)

/-- A step from a published state keeps TABLE and READY, unless it asserts reset in CONSTRUCTED mode. -/
theorem step_sameTableAndReady_or_ends_epoch {s t : State} (h : s.Inv) (hr : s.readReady = true)
    (hs : step s = .next t) :
    SameTableAndReady s t ∨ ((pickAgent s).1 = .assertReset ∧ s.params.initMode = .constructed) := by
  obtain ⟨rest, hrest⟩ := pickAgent_snd s
  obtain ⟨agent, hagent⟩ : ∃ agent, pickAgent s = (agent, { s with schedule := rest }) := ⟨_, Prod.ext rfl hrest⟩
  cases agent with
  | service r =>
    rcases step_service_cases hagent hs with rfl | ⟨i, hx⟩
    · exact .inl (sameTableAndReady_refl s)
    · exact .inl (sameTableAndReady_of_turn r rest (sameTableAndReady_exec hx))
  | initializer =>
    have hturn : State.Inv { s with schedule := rest } := h.with_turn s.serving rest
    obtain rfl := Host.Outcome.next.inj ((step_initializer hagent).symm.trans hs)
    rw [initializerStep_of_ready hturn.phase hr]
    exact .inl (sameTableAndReady_refl s)
  | requester r =>
    have hreq := (step_requester hagent).symm.trans hs
    exact .inl (sameTableAndReady_of_turn s.serving rest (sameTableAndReady_requesterStep hreq))
  | assertReset =>
    obtain rfl := Host.Outcome.next.inj ((step_assertReset hagent).symm.trans hs)
    cases hm : s.params.initMode with
    | constant =>
      exact .inl (sameTableAndReady_of_turn s.serving rest (sameTableAndReady_assertReset_of_constant hm))
    | constructed => exact .inr ⟨by rw [hagent], rfl⟩
  | releaseReset =>
    obtain rfl := Host.Outcome.next.inj ((step_releaseReset hagent).symm.trans hs)
    exact .inl (sameTableAndReady_of_turn s.serving rest (sameTableAndReady_releaseReset _))
  | idle =>
    obtain rfl := Host.Outcome.next.inj ((step_idle hagent).symm.trans hs)
    exact .inl (sameTableAndReady_refl s)

/-! ### The obligations -/

/-- Settles O17: the initializer has no step in a published state, and of the other agents only an assertion of reset in
CONSTRUCTED mode touches TABLE or READY. -/
theorem publishedTableNeverChanges : Obligations.PublishedTableNeverChanges := by
  intro s t h hr hs
  refine ⟨initializerStep_of_ready h.phase hr, ?_⟩
  rcases step_sameTableAndReady_or_ends_epoch h hr hs with ⟨hcell, hready⟩ | hends
  · exact .inl ⟨congrFun hcell, hready.trans hr⟩
  · exact .inr hends

/-- Settles O22: nothing is listed after reset, which reads as `VAL` in CONSTANT mode and as no value in CONSTRUCTED mode,
where CONSTRUCT then writes every cell. -/
theorem resetGivesTheStatedValues : Obligations.ResetGivesTheStatedValues := by
  refine ⟨rfl, fun p hm => ⟨?_, fun a ha => ?_⟩, fun p hm => ⟨?_, fun a => ?_, ?_, fun a ha => ?_⟩⟩
  · exact readReady_of_constant _ hm
  · exact cell_of_constant_nil _ hm (resetOf_table p) a ha
  · simp [readReady_of_constructed (State.resetOf p) hm, hm]
  · exact cell_of_constructed_nil _ hm (resetOf_table p) a
  · exact readReady_construct _
  · exact cell_construct _ ha

/-- Settles O27: the phase of a published state has `VAL` in every cell, and the 16-bit factors and the 32-bit product of
rule R15 lose no bit. -/
theorem everyCellHoldsItsValueOncePublished : Obligations.EveryCellHoldsItsValueOncePublished :=
  ⟨fun _ h => h.valueInvariant,
    fun i => ⟨toNat_factorA i, toNat_factorB i, toNat_mul32 _ _, toNat_val i⟩, by decide, by decide, by decide, by decide⟩

end Sys2Proof.Machine

/-! PROOFS. The table space seen from the port (20_memory.md): the bit order of a byte, that only a published table is ever
answered from, and that the requests of two requesters do not interact. -/

namespace Sys2Proof.Machine

/-! ### The bits of a byte (R35) -/

theorem getLsbD_bits15to8 (p : Product) {k : Nat} (hk : k < 8) : (bits15to8 p).getLsbD k = p.getLsbD (k + 8) := by
  have hmask : (0xFF : Product).getLsbD k = true := by
    rw [show (0xFF : Product) = (BitVec.allOnes 8).setWidth 32 by decide, BitVec.getLsbD_setWidth,
      BitVec.getLsbD_allOnes]
    simp [hk, show k < 32 by omega]
  rw [bits15to8, BitVec.getLsbD_setWidth, BitVec.getLsbD_and, BitVec.getLsbD_ushiftRight, hmask]
  simp [hk, Nat.add_comm]

/-! ### The service of an outstanding request -/

/-- Every word of a port is a request that presents the word itself as its operand (R50, R51, R53). -/
theorem exists_decode_of_lt {pw w : Nat} (hpw : 14 ≤ pw) (hw : w < 2 ^ pw) :
    ∃ i, decode pw w = .ok i ∧ operandOf i = w := by
  unfold decode
  rw [if_neg (by omega), if_neg (by omega)]
  by_cases h14 : pw = 14
  · subst h14
    refine ⟨_, if_pos rfl, ?_⟩
    have hidx : fieldIdx w = w := Nat.mod_eq_of_lt hw
    rw [operandOf, hidx, BitVec.toNat_ofNat, Nat.mod_eq_of_lt hw]
  · refine ⟨_, if_neg h14, ?_⟩
    have hwidth : pw - 1 - 14 + 1 = pw - 14 := by omega
    have hhi : w / 2 ^ 14 < 2 ^ (pw - 14) := by
      rw [Nat.div_lt_iff_lt_mul (by decide), ← Nat.pow_add, Nat.sub_add_cancel hpw]
      exact hw
    simp only [operandOf, fieldHi, fieldIdx, bitField, hwidth, Nat.shiftRight_eq_div_pow, Nat.mod_eq_of_lt hhi]
    omega

/-- Both operations hold, then check the operand, then read (R63, R64): the index of a LOOKUP passes every check. -/
theorem exec_eq (i : Instr) (s : State) :
    exec i s = whenPublished s (if operandOf i < 16384 then readAndRespond (operandOf i) s
      else .next (raiseDomainViolation (operandOf i) s)) := by
  cases i with
  | lookup idx => exact congrArg (whenPublished s) (if_pos idx.isLt).symm
  | lookupx x => exact congrArg (whenPublished s) (if_congr decide_eq_true_iff rfl rfl)

theorem respondByte_eq_afterResponse (x : Nat) (d : Byte) (s : State) :
    respondByte x d s = s.afterResponse x (.byte d) := by
  have hmark : Requester.answered = fun q =>
      { q with waiting := none, faulted := q.faulted || (Response.byte d).err } := by
    funext q
    simp [Requester.answered, Response.err]
  rw [respondByte, State.afterResponse, hmark]

theorem raiseDomainViolation_eq_afterResponse (x : Nat) (s : State) :
    raiseDomainViolation x s = s.afterResponse x (.domainViolation x) := by
  have hmark : Requester.failed = fun q =>
      { q with waiting := none, faulted := q.faulted || (Response.domainViolation x).err } := by
    funext q
    simp [Requester.failed, Response.err]
  rw [raiseDomainViolation, State.afterResponse, hmark]

/-- A published block gives a request the response of its operand. -/
theorem exec_of_ready {s : State} (h : s.Phase) (hr : s.readReady = true) (i : Instr) :
    exec i s = .next (s.afterResponse (operandOf i) (expectedResponse (operandOf i))) := by
  rw [exec_eq, whenPublished_ready s _ hr]
  by_cases hlt : operandOf i < 16384
  · rw [if_pos hlt, readAndRespond_of_cell s _ _ hr (h.cell_of_ready hr _ hlt), respondByte_eq_afterResponse,
      expectedResponse_of_lt hlt]
  · rw [if_neg hlt, raiseDomainViolation_eq_afterResponse, expectedResponse_of_ge (Nat.not_lt.mp hlt)]

/-- The state after requester r has got the response of the operand `w`, with `rest` left to move. -/
def State.afterService (s : State) (r w : Nat) (rest : List Agent) : State :=
  State.afterResponse { s with schedule := rest, serving := r } w (expectedResponse w)

theorem readReady_afterService (s : State) (r w : Nat) (rest : List Agent) :
    (s.afterService r w rest).readReady = s.readReady := rfl

/-- A service answers no requester but its own. -/
theorem requesters_afterService_other (s : State) {r j : Nat} (w : Nat) (rest : List Agent) (h : r ≠ j) :
    (s.afterService r w rest).requesters[j]? = s.requesters[j]? :=
  List.getElem?_modify_ne _ _ h

/-- The service of a waiting requester, in a published state, is one step that answers it. -/
theorem step_service {s : State} {r w : Nat} {q : Requester} {rest : List Agent} (h : s.Inv) (hr : s.readReady = true)
    (hs : s.schedule = .service r :: rest) (hq : s.requesters[r]? = some q) (hw : q.waiting = some w) :
    step s = .next (s.afterService r w rest) := by
  obtain ⟨i, hi, rfl⟩ := exists_decode_of_lt h.port (h.words q (List.mem_of_getElem? hq) w hw)
  have hfetch : fetch r { s with schedule := rest } = .request i { s with schedule := rest, serving := r } :=
    fetch_of_waiting r _ q _ i hq hw hi
  rw [step, pickAgent_cons s _ _ hs]
  simp only [hfetch]
  exact exec_of_ready (h.with_turn r rest).phase hr i

/-- Two services, one after the other, answer their two requesters in that order. -/
theorem runSteps_two_services {s : State} {r₁ r₂ w₁ w₂ : Nat} {q₁ q₂ : Requester} (h : s.Inv)
    (hr : s.readReady = true) (hne : r₁ ≠ r₂) (hq₁ : s.requesters[r₁]? = some q₁) (hw₁ : q₁.waiting = some w₁)
    (hq₂ : s.requesters[r₂]? = some q₂) (hw₂ : q₂.waiting = some w₂) :
    runSteps 2 { s with schedule := [.service r₁, .service r₂] } =
      .next ((s.afterService r₁ w₁ [.service r₂]).afterService r₂ w₂ []) := by
  have hstart : State.Inv { s with schedule := [.service r₁, .service r₂] } := h.with_turn s.serving _
  have hfirst : step { s with schedule := [.service r₁, .service r₂] } = .next (s.afterService r₁ w₁ [.service r₂]) :=
    step_service hstart hr rfl hq₁ hw₁
  have hsecond : step (s.afterService r₁ w₁ [.service r₂]) =
      .next ((s.afterService r₁ w₁ [.service r₂]).afterService r₂ w₂ []) :=
    step_service (inv_step hstart hfirst) hr rfl ((requesters_afterService_other s w₁ _ hne).trans hq₂) hw₂
  simp only [runSteps, hfirst, hsecond]

/-! ### Two orders of service -/

/-- Of two entries of different requesters each requester has the same ones as its own, whichever comes first (R7). -/
theorem filter_requester_swap (l : List Observation) {o₁ o₂ : Observation} (h : o₁.requester ≠ o₂.requester) (r : Nat) :
    (l ++ [o₁, o₂]).filter (fun o => o.requester == r) = (l ++ [o₂, o₁]).filter (fun o => o.requester == r) := by
  by_cases h₁ : o₁.requester = r
  · have h₂ : o₂.requester ≠ r := fun h₂ => h (h₁.trans h₂.symm)
    simp [h₁, h₂]
  · simp [List.filter_cons, h₁]

/-! ### The obligations -/

/-- Settles O16: only a served request adds to the observation, and only where READY is 1, where every cell holds its
`VAL`. -/
theorem responsesComeOnlyFromAPublishedTable : Obligations.ResponsesComeOnlyFromAPublishedTable := by
  intro s t h hs hne
  have hready : s.readReady = true := by
    obtain ⟨rest, u, rfl, hu⟩ := step_cases s t hs
    rcases hu with rfl | ⟨r, i, q, w, -, -, -, hx⟩ | rfl | ⟨r, hreq⟩ | rfl | rfl
    · exact absurd rfl hne
    · rcases exec_cases i _ t hx with ⟨-, rfl⟩ | ⟨hr, -⟩ | ⟨hr, -⟩
      · exact absurd rfl hne
      · exact hr
      · exact hr
    · exact absurd (initializerStep_observed _) hne
    · rcases requesterStep_cases r _ t hreq with rfl | ⟨q, c, left, w, -, -, -, -, rfl⟩
      · exact absurd rfl hne
      · exact absurd rfl hne
    · exact absurd (assertReset_observed _) hne
    · exact absurd (releaseReset_observed _) hne
  exact ⟨hready, h.phase.cell_of_ready hready⟩

/-- Settles O32: each service answers its own requester with the response of the operand and leaves the rest, so the two
orders differ in the place of the two entries of the observation alone. -/
theorem requestersDoNotInteract : Obligations.RequestersDoNotInteract := by
  intro s r₁ r₂ q₁ q₂ w₁ w₂ h hr hne hq₁ hw₁ hq₂ hw₂
  have ht := runSteps_two_services h hr hne hq₁ hw₁ hq₂ hw₂
  have hu := runSteps_two_services h hr hne.symm hq₂ hw₂ hq₁ hw₁
  have hobs (r r' w w' : Nat) (rest : List Agent) : ((s.afterService r w rest).afterService r' w' []).observed =
      s.observed ++ [⟨r, w, expectedResponse w⟩, ⟨r', w', expectedResponse w'⟩] := List.append_assoc _ _ _
  refine ⟨_, _, ht, hu, hobs .., hobs .., fun r => ?_, List.modify_modify_ne _ _ _ hne, rfl, rfl⟩
  rw [hobs, hobs]
  exact filter_requester_swap _ hne r

/-- Settles O40: the byte is the product shifted down by 8 and cut to its low 8 bits. -/
theorem bitOrderOfTheByte : Obligations.BitOrderOfTheByte := fun _ _ hk => getLsbD_bits15to8 _ hk

end Sys2Proof.Machine

/-! PROOFS. Which request words are illegal (30_encoding.md rule R56): exactly those of a wide port whose field `hi` is not
zero, that is those that do not fit in 14 bits. -/

namespace Sys2Proof.Machine

/-! ### The field `hi` of a word of a wide port (R51) -/

/-- A word of a wide port loses no bit to the field `hi`: the field is all that stands above bit 13. -/
theorem fieldHi_eq_div {pw w : Nat} (hpw : 15 ≤ pw) (hw : w < 2 ^ pw) : fieldHi pw w = w / 16384 := by
  have hwidth : pw - 1 - 14 + 1 = pw - 14 := by omega
  have hlt : w / 2 ^ 14 < 2 ^ (pw - 14) := by
    rw [Nat.div_lt_iff_lt_mul (by decide), ← Nat.pow_add, Nat.sub_add_cancel (by omega)]
    exact hw
  rw [fieldHi, bitField, hwidth, Nat.shiftRight_eq_div_pow, Nat.mod_eq_of_lt hlt,
    show 2 ^ 14 = 16384 from rfl]

theorem fieldHi_eq_zero_iff {pw w : Nat} (hpw : 15 ≤ pw) (hw : w < 2 ^ pw) : fieldHi pw w = 0 ↔ w < 16384 := by
  rw [fieldHi_eq_div hpw hw]
  exact Nat.div_eq_zero_iff_lt (by decide)

theorem fieldHi_ne_zero_iff {pw w : Nat} (hpw : 15 ≤ pw) (hw : w < 2 ^ pw) : fieldHi pw w ≠ 0 ↔ 16384 ≤ w := by
  rw [Ne, fieldHi_eq_zero_iff hpw hw, Nat.not_lt]

/-- The illegal words of the reference port, PW = 16, are 0x4000 to 0xFFFF. -/
theorem filter_fieldHi_ne_zero :
    (Finset.range 65536).filter (fun w => fieldHi 16 w ≠ 0) = Finset.Ico 16384 65536 := by
  ext w
  rw [Finset.mem_filter, Finset.mem_range, Finset.mem_Ico, and_comm]
  exact and_congr_left fun hw => fieldHi_ne_zero_iff (by decide) hw

/-! ### Integers presented on a wide port (R70) -/

theorem two_pow_15_le {pw : Nat} (hpw : 15 ≤ pw) : 32768 ≤ 2 ^ pw := Nat.pow_le_pow_right (by decide : 0 < 2) hpw

theorem toOperand_natCast {pw n : Nat} (hpw : 15 ≤ pw) (hn : n < 2 ^ pw) : toOperand pw n = some n := by
  have hhalf : 0 < 2 ^ (pw - 1) := Nat.two_pow_pos (pw - 1)
  rw [toOperand, if_neg (by omega), if_pos ⟨hpw, by omega, by exact_mod_cast hn⟩, ← Int.natCast_mod,
    Int.toNat_natCast, Nat.mod_eq_of_lt hn]

/-- -1 is presented as the word of all ones. -/
theorem toOperand_neg_one {pw : Nat} (hpw : 15 ≤ pw) : toOperand pw (-1) = some (2 ^ pw - 1) := by
  have hpos : 0 < 2 ^ pw := Nat.two_pow_pos pw
  have hhalf : 0 < 2 ^ (pw - 1) := Nat.two_pow_pos (pw - 1)
  have hmod : (-1 : Int) % ((2 ^ pw : Nat) : Int) = ((2 ^ pw - 1 : Nat) : Int) := by
    rw [← Int.add_emod_right, Int.emod_eq_of_lt (by omega) (by omega)]
    omega
  rw [toOperand, if_neg (by omega), if_pos ⟨hpw, by omega, by omega⟩, hmod, Int.toNat_natCast]

/-! ### The two answers of a published block, from the value invariant alone -/

theorem State.ValueInvariant.cell_of_ready {s : State} (h : s.ValueInvariant) (hr : s.readReady = true) {a : Nat}
    (ha : a < 16384) : s.cell a = some (valAt a) := by
  have hcell := h hr (BitVec.ofNat 14 a)
  rwa [BitVec.toNat_ofNat, Nat.mod_eq_of_lt ha] at hcell

/-- An operand of the domain is answered with its `VAL`, by either operation (R63, R64). -/
theorem exec_of_lt {s : State} (h : s.ValueInvariant) (hr : s.readReady = true) {i : Instr} (hi : operandOf i < 16384) :
    exec i s = .next (s.afterResponse (operandOf i) (.byte (valAt (operandOf i)))) := by
  rw [exec_eq, whenPublished_ready s _ hr, if_pos hi, readAndRespond_of_cell s _ _ hr (h.cell_of_ready hr hi),
    respondByte_eq_afterResponse]

/-- Any other operand raises DomainViolation, whatever the cells hold (R64, R97). -/
theorem exec_of_ge {s : State} (hr : s.readReady = true) {i : Instr} (hi : 16384 ≤ operandOf i) :
    exec i s = .next (s.afterResponse (operandOf i) (.domainViolation (operandOf i))) := by
  rw [exec_eq, whenPublished_ready s _ hr, if_neg (Nat.not_lt.mpr hi), raiseDomainViolation_eq_afterResponse]

/-! ### The obligation -/

/-- Settles O5: a word is the operand of the request it decodes to, the field `hi` of a word of a wide port is zero exactly
where the operand is in the domain, and the domain check alone decides between a byte and DomainViolation. -/
theorem illegalWordsAreExactlyThoseAboveTheDomain : Obligations.IllegalWordsAreExactlyThoseAboveTheDomain := by
  refine ⟨fun s w hw h hr => ?_, fun s pw w hpw hw h hr => ?_, ?_, fun pw hpw => ?_, by decide, by decide⟩
  · obtain ⟨i, hi, rfl⟩ := exists_decode_of_lt (le_refl 14) hw
    exact ⟨i, hi, _, exec_of_lt h hr hw⟩
  · obtain ⟨i, hi, rfl⟩ := exists_decode_of_lt (by omega) hw
    exact ⟨i, hi, (fieldHi_ne_zero_iff hpw hw).symm,
      fun hhi => exec_of_ge hr ((fieldHi_ne_zero_iff hpw hw).mp hhi),
      fun hhi => ⟨_, exec_of_lt h hr ((fieldHi_eq_zero_iff hpw hw).mp hhi)⟩⟩
  · rw [filter_fieldHi_ne_zero, Nat.card_Ico]
  · have hwide : 32768 ≤ 2 ^ pw := two_pow_15_le hpw
    have hlt : 16384 < 2 ^ pw := by omega
    exact ⟨fieldHi_eq_div hpw hlt, by decide, toOperand_natCast hpw hlt, toOperand_neg_one hpw, by omega⟩

end Sys2Proof.Machine

/-! PROOFS. The lookup family (40_lookup.md): what LOOKUP and LOOKUPX answer and what they leave unchanged, which integers
a requester can present, and what the collaborator's two pseudo-operations get. -/

namespace Sys2Proof.Machine

/-! ### What a request does to the state (R63, R64, R67) -/

/-- R122: while READY is 0 a request of either operation has no step. -/
theorem exec_of_held {s : State} (hr : s.readReady = false) (i : Instr) : exec i s = .next s := by
  rw [exec_eq, whenPublished_held s _ hr]

/-- The operand is all that a request says: LOOKUP and LOOKUPX of one operand do the same. -/
theorem exec_congr_operand {i j : Instr} (h : operandOf i = operandOf j) (s : State) : exec i s = exec j s := by
  rw [exec_eq, exec_eq, h]

/-- A request with a next state is held or gets one response, a fault only where it is a LOOKUPX of an operand out of the
domain. -/
theorem exec_held_or_afterResponse {i : Instr} {s t : State} (h : exec i s = .next t) :
    t = s ∨ ∃ resp : Response, t = s.afterResponse (operandOf i) resp ∧
      (resp.err = false ∨ ∃ x, i = .lookupx x ∧ 16384 ≤ x) := by
  rcases exec_cases i s t h with ⟨-, rfl⟩ | ⟨-, -, d, -, rfl⟩ | ⟨-, hge, rfl⟩
  · exact .inl rfl
  · exact .inr ⟨_, respondByte_eq_afterResponse _ d s, .inl rfl⟩
  · refine .inr ⟨_, raiseDomainViolation_eq_afterResponse _ s, .inr ?_⟩
    cases i with
    | lookup idx => exact absurd idx.isLt (Nat.not_lt.mpr hge)
    | lookupx x => exact ⟨x, rfl, hge⟩

/-- A response changes nothing of a requester but the one served. -/
theorem requesters_afterResponse_other (s : State) (x : Nat) (resp : Response) {r : Nat} (h : r ≠ s.serving) :
    (s.afterResponse x resp).requesters[r]? = s.requesters[r]? :=
  List.getElem?_modify_ne _ _ h.symm

/-- The requester served waits no longer, and a fault marks its session. -/
theorem requesters_afterResponse_same {s : State} {q : Requester} (x : Nat) (resp : Response)
    (hq : s.requesters[s.serving]? = some q) :
    (s.afterResponse x resp).requesters[s.serving]? =
      some { q with waiting := none, faulted := q.faulted || resp.err } := by
  simp [State.afterResponse, hq]

/-- Of the agents only the initializer and the assertion of reset write TABLE or READY. -/
theorem step_sameTableAndReady_or_writer {s t : State} (hs : step s = .next t) :
    SameTableAndReady s t ∨ (pickAgent s).1 = .initializer ∨ (pickAgent s).1 = .assertReset := by
  obtain ⟨rest, hrest⟩ := pickAgent_snd s
  obtain ⟨agent, hagent⟩ : ∃ agent, pickAgent s = (agent, { s with schedule := rest }) := ⟨_, Prod.ext rfl hrest⟩
  cases agent with
  | initializer => exact .inr (.inl (by rw [hagent]))
  | assertReset => exact .inr (.inr (by rw [hagent]))
  | service r =>
    rcases step_service_cases hagent hs with rfl | ⟨i, hx⟩
    · exact .inl (sameTableAndReady_refl s)
    · exact .inl (sameTableAndReady_of_turn r rest (sameTableAndReady_exec hx))
  | requester r =>
    have hreq := (step_requester hagent).symm.trans hs
    exact .inl (sameTableAndReady_of_turn s.serving rest (sameTableAndReady_requesterStep hreq))
  | releaseReset =>
    obtain rfl := Host.Outcome.next.inj ((step_releaseReset hagent).symm.trans hs)
    exact .inl (sameTableAndReady_of_turn s.serving rest (sameTableAndReady_releaseReset _))
  | idle =>
    obtain rfl := Host.Outcome.next.inj ((step_idle hagent).symm.trans hs)
    exact .inl (sameTableAndReady_refl s)

/-! ### Integers presented on a port (R70) -/

theorem toIndex_eq (v : Int) : toIndex v = if 0 ≤ v ∧ v < 16384 then some (BitVec.ofInt 14 v) else none := by
  refine if_ctx_congr Iff.rfl (fun hv => ?_) fun _ => rfl
  rw [← Int.toNat_of_nonneg hv.1, BitVec.ofInt_natCast, Int.toNat_natCast]

/-- On the 14-bit port an integer of the domain is presented as it is, and no other integer is presented. -/
theorem toOperand_narrow_iff (v : Int) (w : Nat) : toOperand 14 v = some w ↔ 0 ≤ v ∧ v < 16384 ∧ (w : Int) = v := by
  rw [toOperand, if_pos rfl, toIndex]
  by_cases hv : 0 ≤ v ∧ v < 16384
  · have hlt : v.toNat < 2 ^ 14 := by omega
    rw [if_pos hv, Option.map_some, indexAddress, BitVec.toNat_ofNat, Nat.mod_eq_of_lt hlt, Option.some_inj]
    omega
  · rw [if_neg hv, Option.map_none]
    simp only [reduceCtorEq, false_iff]
    omega

/-- On a wider port an integer is presented if and only if the width holds it, as an unsigned or as a signed number. -/
theorem exists_toOperand_iff {pw : Nat} (hpw : 15 ≤ pw) (v : Int) :
    (∃ w, toOperand pw v = some w) ↔ -((2 ^ (pw - 1) : Nat) : Int) ≤ v ∧ v < ((2 ^ pw : Nat) : Int) := by
  rw [toOperand, if_neg (by omega)]
  simp [hpw]

/-- What stands on a wider port is the integer, or the two's-complement pattern of a negative one. -/
theorem toOperand_wide {pw w : Nat} {v : Int} (hpw : 15 ≤ pw) (h : toOperand pw v = some w) :
    (w : Int) = if 0 ≤ v then v else v + (2 ^ pw : Nat) := by
  obtain ⟨hlo, hhi⟩ := (exists_toOperand_iff hpw v).mp ⟨w, h⟩
  have hpow : 2 ^ (pw - 1) ≤ 2 ^ pw := Nat.pow_le_pow_right (by decide) (by omega)
  rw [toOperand, if_neg (by omega), if_pos ⟨hpw, hlo, hhi⟩, Option.some_inj] at h
  generalize 2 ^ pw = m at *
  split
  next hv =>
    rw [Int.emod_eq_of_lt hv hhi] at h
    omega
  next hv =>
    rw [← Int.add_emod_right, Int.emod_eq_of_lt (by omega) (by omega)] at h
    omega

/-- Every port of a block presents an index as it is. -/
theorem toOperand_of_lt {pw n : Nat} (hpw : 14 ≤ pw) (hn : n < 16384) : toOperand pw n = some n := by
  by_cases h14 : pw = 14
  · subst h14
    exact (toOperand_narrow_iff n n).mpr ⟨by omega, by omega, rfl⟩
  · have hwide : 32768 ≤ 2 ^ pw := two_pow_15_le (by omega)
    exact toOperand_natCast (by omega) (by omega)

/-! ### The legacy computation (R66) -/

theorem toNat_factorA_eq_add (i : Index) : (factorA i).toNat = 4 * i.toNat + 3 := by
  rw [toNat_factorA, ← Nat.shiftLeft_add_eq_or_of_lt (by decide), Nat.shiftLeft_eq]
  omega

theorem toNat_factorB_eq_add (i : Index) : (factorB i).toNat = 4 * i.toNat + 2 := by
  rw [toNat_factorB, ← Nat.shiftLeft_add_eq_or_of_lt (by decide), Nat.shiftLeft_eq]
  omega

theorem factorB_xor_one (i : Index) : factorB i ^^^ 1 = factorA i := by
  refine BitVec.eq_of_toNat_eq ?_
  rw [BitVec.toNat_xor, toNat_factorA_eq_add, toNat_factorB_eq_add]
  exact Nat.xor_one_of_even ⟨2 * i.toNat + 1, by omega⟩

theorem factorA_xor_one (i : Index) : factorA i ^^^ 1 = factorB i := by
  rw [← factorB_xor_one, BitVec.xor_assoc, BitVec.xor_self, BitVec.xor_zero]

theorem toNat_formIndex (v : Working) : (formIndex v).toNat = v.toNat >>> 2 := by
  have hv : v.toNat < 65536 := v.isLt
  rw [formIndex, BitVec.extractLsb'_toNat, Nat.shiftRight_eq_div_pow]
  exact Nat.mod_eq_of_lt (by omega)

theorem valAt_shiftRight_two (v : Working) : valAt (v.toNat >>> 2) = val (formIndex v) := by
  rw [← toNat_formIndex, valAt_toNat]

/-- A working value with bit 1 set is one of the two factors of its index: which one, its bit 0 says. -/
theorem eq_factor_of_bit_one {v : Working} (h : v.getLsbD 1 = true) :
    v = factorA (formIndex v) ∨ v = factorB (formIndex v) := by
  have hbit : v.toNat / 2 % 2 = 1 := by
    simpa [BitVec.getLsbD, Nat.testBit_eq_decide_div_mod_eq] using h
  rw [← BitVec.toNat_inj, ← BitVec.toNat_inj, toNat_factorA_eq_add, toNat_factorB_eq_add, toNat_formIndex,
    Nat.shiftRight_eq_div_pow]
  omega

theorem legacyByte_factorA (i : Index) : legacyByte (factorA i) = val i := by
  rw [legacyByte, factorA_xor_one, val]

theorem legacyByte_factorB (i : Index) : legacyByte (factorB i) = val i := by
  rw [legacyByte, factorB_xor_one, val, mul32, BitVec.mul_comm, mul32]

/-- R66: where bit 1 of a working value is 1, the legacy computation multiplies the two factors of its index. -/
theorem legacyByte_eq_val {v : Working} (h : v.getLsbD 1 = true) : legacyByte v = val (formIndex v) := by
  rcases eq_factor_of_bit_one h with hv | hv
  · exact (congrArg legacyByte hv).trans (legacyByte_factorA _)
  · exact (congrArg legacyByte hv).trans (legacyByte_factorB _)

theorem formIndex_or_two (v : Working) : formIndex (v ||| 2) = formIndex v := by
  have htwo : (2 : Working).extractLsb' 2 14 = 0 := by decide
  rw [formIndex, BitVec.extractLsb'_or, htwo]
  exact BitVec.or_zero

theorem legacyByte_or_two (v : Working) : legacyByte (v ||| 2) = val (formIndex v) := by
  rw [legacyByte_eq_val (by simp), formIndex_or_two]

/-! ### A call presented and served (R6, R61) -/

/-- The state after requester r has become `p` by presenting a call, with `agents` left to move. -/
def State.afterPresenting (s : State) (r : Nat) (p : Requester) (agents : List Agent) : State :=
  { s with schedule := agents, requesters := s.requesters.set r p }

theorem requesters_afterPresenting_same {s : State} {r : Nat} {q : Requester} (p : Requester) (agents : List Agent)
    (hq : s.requesters[r]? = some q) : (s.afterPresenting r p agents).requesters[r]? = some p :=
  List.getElem?_set_self (List.getElem?_eq_some_iff.mp hq).1

theorem step_present {s : State} {r w : Nat} {q : Requester} {c : Call} {rest : List Call} {agents : List Agent}
    (hs : s.schedule = .requester r :: agents) (hq : s.requesters[r]? = some q) (hidle : q.waiting = none)
    (hscript : q.script = c :: rest) (hw : toOperand s.params.pw c.value = some w) :
    step s = .next (s.afterPresenting r { q with script := rest, waiting := some w } agents) := by
  rw [step_requester (pickAgent_cons s _ _ hs)]
  simp [requesterStep, hq, hidle, hscript, hw, State.afterPresenting]

theorem runSteps_two {s t u : State} (hst : step s = .next t) (htu : step t = .next u) : runSteps 2 s = .next u := by
  simp only [runSteps, hst, htu]

/-- In a published state a call of an index, presented and then served, is answered with `VAL` of the index on every
port, and of the requester nothing changes but that the call is off its script. -/
theorem runSteps_present_then_serve {s : State} {r n : Nat} {q : Requester} {c : Call} {rest : List Call} (h : s.Inv)
    (hr : s.readReady = true) (hs : s.schedule = [.requester r, .service r]) (hq : s.requesters[r]? = some q)
    (hidle : q.waiting = none) (hscript : q.script = c :: rest) (hc : c.value = n) (hn : n < 16384) :
    ∃ t, runSteps 2 s = .next t ∧ t.requesters[r]? = some { q with script := rest } ∧
      t.observed = s.observed ++ [⟨r, n, .byte (valAt n)⟩] := by
  have hw : toOperand s.params.pw c.value = some n := by rw [hc, toOperand_of_lt h.port hn]
  have hpresent := step_present hs hq hidle hscript hw
  have hp := requesters_afterPresenting_same { q with script := rest, waiting := some n } [.service r] hq
  have hserve := step_service (inv_step h hpresent) hr rfl hp rfl
  refine ⟨_, runSteps_two hpresent hserve, ?_, ?_⟩
  · rw [State.afterService, expectedResponse_of_lt hn]
    refine (requesters_afterResponse_same n (.byte (valAt n)) hp).trans ?_
    simp [Response.err, hidle]
  · exact congrArg (fun resp => s.observed ++ [⟨r, n, resp⟩]) (expectedResponse_of_lt hn)

/-! ### The obligations -/

/-- Settles O8: a LOOKUP has an operand of the domain, so it is held or reads the cell of its index; the formula is `VAL`
computed in the widths of rule R15. -/
theorem lookupAnswersValOfItsIndex : Obligations.LookupAnswersValOfItsIndex := by
  refine ⟨fun idx s hr => exec_of_held hr _, fun idx s h hr => ?_, fun idx => ?_,
    by decide, by decide, by decide, by decide, by decide⟩
  · rw [exec_of_lt h hr (i := .lookup idx) idx.isLt, operandOf, valAt_toNat]
  · rw [toNat_val, toNat_factorA, toNat_factorB]

/-- Settles O9: the domain check alone decides between DomainViolation and the read, and neither the fault nor its response
touches what the next request reads. -/
theorem lookupxChecksItsOperandThenReads : Obligations.LookupxChecksItsOperandThenReads := by
  refine ⟨fun x s hr => exec_of_held hr _, fun x s hx hr => exec_of_ge hr (i := .lookupx x) hx,
    fun x s hx h hr => exec_of_lt h hr (i := .lookupx x) hx, fun x s hx => exec_congr_operand ?_ s,
    fun x y s _ hy h hr => ?_, by decide, by decide⟩
  · exact (Nat.mod_eq_of_lt hx).symm
  · have hafter : (s.afterResponse x (.domainViolation x)).ValueInvariant := h
    exact exec_of_lt hafter hr (i := .lookupx y) hy

/-- Settles O10: a request is held or gets one response, which is in the observation and the requester served alone; of the
agents only the initializer and the assertion of reset write cells. -/
theorem noRequestWritesTheBlock : Obligations.NoRequestWritesTheBlock := by
  refine ⟨fun i s t hx => ?_, fun s t a hs hne => ?_⟩
  · rcases exec_held_or_afterResponse hx with rfl | ⟨resp, rfl, hfault⟩
    · exact ⟨rfl, rfl, rfl, rfl, rfl, rfl, rfl, rfl, fun _ => rfl, .inl rfl, fun _ _ => rfl,
        fun q hq => ⟨q, hq, rfl, .inl rfl⟩⟩
    · refine ⟨rfl, rfl, rfl, rfl, rfl, rfl, rfl, rfl, fun _ => rfl, .inr ⟨_, rfl, rfl⟩,
        fun _ hne => requesters_afterResponse_other s _ resp hne,
        fun q hq => ⟨_, requesters_afterResponse_same _ resp hq, rfl, ?_⟩⟩
      exact hfault.imp_left fun hok => by simp [hok]
  · refine (step_sameTableAndReady_or_writer hs).resolve_left fun hsame => ?_
    exact hne (congrFun hsame.1 a)

/-- Settles O35: the conversion of each port gives the integer itself or the pattern of a negative one, which the sign bit
puts out of the domain, and gives nothing for an integer that the width does not hold. -/
theorem integersAreNeverTruncatedToAnIndex : Obligations.IntegersAreNeverTruncatedToAnIndex := by
  refine ⟨toOperand_narrow_iff, fun pw v w hpw hw => ?_, fun pw v hpw => exists_toOperand_iff hpw v,
    fun pw hpw => ⟨?_, toOperand_neg_one hpw⟩, by decide, by decide, toIndex_eq⟩
  · have hpattern := toOperand_wide hpw hw
    have hlo := ((exists_toOperand_iff hpw v).mp ⟨w, hw⟩).1
    have hhalf : 2 ^ pw = 2 ^ (pw - 1) * 2 := (Nat.pow_pred_mul (by omega)).symm
    have hwide : 32768 ≤ 2 ^ pw := two_pow_15_le hpw
    refine ⟨toOperand_lt hw, ?_, fun hv => by rwa [if_pos hv] at hpattern,
      fun hv => by rwa [if_neg (by omega)] at hpattern⟩
    split at hpattern <;> omega
  · have hlt : 16384 < 2 ^ pw := Nat.lt_of_lt_of_le (by decide) (two_pow_15_le hpw)
    exact toOperand_natCast hpw hlt

/-- Settles O36: both calls look up the index of the working value, and `VAL` of it is the legacy byte of every working
value of that index with bit 1 set. -/
theorem decryptByteGivesTheLegacyByte : Obligations.DecryptByteGivesTheLegacyByte := by
  intro s r q rest v h hr hs hq hidle _
  have hn : v.toNat >>> 2 < 16384 := toNat_formIndex v ▸ (formIndex v).isLt
  have hvalue : ((formIndex v).toNat : Int) = (v.toNat >>> 2 : Nat) := by rw [toNat_formIndex]
  refine ⟨fun hscript => ?_, fun hscript => ?_, by decide, by decide⟩
  · rw [legacyByte_or_two, ← valAt_shiftRight_two]
    exact runSteps_present_then_serve h hr hs hq hidle hscript hvalue hn
  · obtain ⟨t, hrun, hreq, hobs⟩ := runSteps_present_then_serve h hr hs hq hidle hscript hvalue hn
    exact ⟨t, hrun, hreq, hobs, fun hbit => (valAt_shiftRight_two v).trans (legacyByte_eq_val hbit).symm⟩

end Sys2Proof.Machine

/-! PROOFS. CONSTRUCT (41_construct.md): what one step of it does, the state after each of its iterations, and that the
table it leaves depends neither on the order of the writes nor on the table it starts from. -/

namespace Sys2Proof.Machine

/-! ### One step of CONSTRUCT (R74) -/

theorem initializerStep_iteration {s : State} {n : Nat} (hi : s.initializer = .building n) (hn : n < 16384) :
    initializerStep s = (constructIteration n s).setInitializer (.building (n + 1)) := by
  simp [initializerStep, hi, hn]

theorem initializerStep_publication {s : State} {n : Nat} (hi : s.initializer = .building n) (hn : 16384 ≤ n) :
    initializerStep s = publish s := by
  simp [initializerStep, hi, hn.not_gt]

/-- Publication ends CONSTRUCT wherever the initializer stood. -/
theorem publish_setInitializer (i : Initializer) (s : State) : publish (s.setInitializer i) = publish s := by
  cases hm : s.params.initMode <;> simp [publish, State.writeReady, State.setInitializer, hm]

/-! ### Writing a list of cells -/

/-- The writes touch TABLE alone. -/
theorem writeCells_frame (order : List Nat) (s : State) :
    writeCells order s = { s with table := (writeCells order s).table } := by
  induction order generalizing s with
  | nil => rfl
  | cons i rest ih => exact ih (constructIteration i s)

@[simp] theorem writeCells_params (order : List Nat) (s : State) : (writeCells order s).params = s.params := by
  rw [writeCells_frame]

@[simp] theorem writeCells_ready (order : List Nat) (s : State) : (writeCells order s).ready = s.ready := by
  rw [writeCells_frame]

@[simp] theorem writeCells_schedule (order : List Nat) (s : State) : (writeCells order s).schedule = s.schedule := by
  rw [writeCells_frame]

/-- What is written does not depend on who moves next. -/
theorem writeCells_withSchedule (order : List Nat) (s : State) (agents : List Agent) :
    writeCells order { s with schedule := agents } = { writeCells order s with schedule := agents } := by
  induction order generalizing s with
  | nil => rfl
  | cons i rest ih => exact ih (constructIteration i s)

theorem writeCells_concat (order : List Nat) (i : Nat) (s : State) :
    writeCells (order ++ [i]) s = constructIteration i (writeCells order s) := by
  simp [writeCells]

theorem writeCells_table_wf {order : List Nat} {s : State} (horder : ∀ i ∈ order, i < 16384)
    (h : Memory.wf s.params.initMode s.table) : Memory.wf s.params.initMode (writeCells order s).table := by
  induction order generalizing s with
  | nil => exact h
  | cons i rest ih =>
    obtain ⟨hi, hrest⟩ := List.forall_mem_cons.mp horder
    exact ih (s := constructIteration i s) hrest (Memory.write_wf _ _ i (valAt i) hi h)

/-! ### The table that a construction leaves (R76, R78) -/

theorem cell_of_ge (s : State) {a : Nat} (ha : 16384 ≤ a) : s.cell a = none := if_neg ha.not_gt

/-- A table in canonical form lists no address outside the table space. -/
theorem Memory.read_of_ge {mode : InitMode} {m : Memory} (h : Memory.wf mode m) {a : Nat} (ha : 16384 ≤ a) :
    m.read mode a = Memory.unlisted mode a := by
  have hfind : m.find a = none := Option.eq_none_iff_forall_not_mem.mpr fun d hd =>
    absurd (h.2 _ (Memory.mem_of_find m a d hd)).1 ha.not_gt
  rw [Memory.read, hfind]

/-- The canonical form makes the table a function of the cells. -/
theorem table_eq_of_cell {s t : State} (hmode : s.params.initMode = t.params.initMode)
    (hs : Memory.wf s.params.initMode s.table) (ht : Memory.wf t.params.initMode t.table)
    (hcell : ∀ a, a < 16384 → s.cell a = t.cell a) : s.table = t.table := by
  rw [← hmode] at ht
  refine Memory.ext_read _ _ _ hs ht fun a => ?_
  by_cases ha : a < 16384
  · simpa [State.cell, ha, ← hmode] using hcell a ha
  · rw [Memory.read_of_ge hs (Nat.le_of_not_lt ha), Memory.read_of_ge ht (Nat.le_of_not_lt ha)]

/-- Two orders that name every cell leave the same table, whatever the tables they start from. -/
theorem writeCells_table_eq {s t : State} {order₁ order₂ : List Nat} (hmode : s.params.initMode = t.params.initMode)
    (hs : Memory.wf s.params.initMode s.table) (ht : Memory.wf t.params.initMode t.table)
    (h₁ : ∀ a, a ∈ order₁ ↔ a < 16384) (h₂ : ∀ a, a ∈ order₂ ↔ a < 16384) :
    (writeCells order₁ s).table = (writeCells order₂ t).table := by
  have hs' := writeCells_table_wf (fun i => (h₁ i).mp) hs
  have ht' := writeCells_table_wf (fun i => (h₂ i).mp) ht
  refine table_eq_of_cell (by simpa using hmode) (by simpa using hs') (by simpa using ht') fun a ha => ?_
  rw [cell_writeCells _ _ ha, cell_writeCells _ _ ha, if_pos ((h₁ a).mpr ha), if_pos ((h₂ a).mpr ha)]

/-! ### CONSTRUCT, iteration by iteration -/

/-- The state of a CONSTRUCT that was about to make iteration n, after k turns of the initializer. -/
def State.afterIterations (s : State) (n k : Nat) : State :=
  (writeCells (List.range' n k) { s with schedule := s.schedule.drop k }).setInitializer (.building (n + k))

@[simp] theorem afterIterations_params (s : State) (n k : Nat) : (s.afterIterations n k).params = s.params := by
  simp [State.afterIterations]

@[simp] theorem afterIterations_ready (s : State) (n k : Nat) : (s.afterIterations n k).ready = s.ready := by
  simp [State.afterIterations]

@[simp] theorem afterIterations_initializer (s : State) (n k : Nat) :
    (s.afterIterations n k).initializer = .building (n + k) := rfl

@[simp] theorem afterIterations_schedule (s : State) (n k : Nat) :
    (s.afterIterations n k).schedule = s.schedule.drop k := by
  simp [State.afterIterations]

theorem afterIterations_zero {s : State} {n : Nat} (hi : s.initializer = .building n) : s.afterIterations n 0 = s := by
  rw [State.afterIterations, Nat.add_zero, ← hi]
  rfl

theorem cell_afterIterations (s : State) (n k : Nat) {a : Nat} (ha : a < 16384) :
    (s.afterIterations n k).cell a = if n ≤ a ∧ a < n + k then some (valAt a) else s.cell a := by
  rw [State.afterIterations, cell_setInitializer, cell_writeCells _ _ ha]
  exact if_congr List.mem_range'_1 rfl rfl

/-- A schedule of the initializer's turns gives the next step to the initializer. -/
theorem step_initializer_turn {s : State} (hall : ∀ a ∈ s.schedule, a = .initializer) (hlen : 0 < s.schedule.length) :
    step s = .next (initializerStep { s with schedule := s.schedule.drop 1 }) := by
  obtain ⟨a, rest, hs⟩ := List.exists_cons_of_length_pos hlen
  obtain rfl : a = .initializer := hall a (by simp [hs])
  rw [step_initializer (pickAgent_cons s _ _ hs), hs]
  rfl

/-- One turn of the initializer after k of them. -/
theorem step_afterIterations {s : State} (n : Nat) {k : Nat} (hall : ∀ a ∈ s.schedule, a = .initializer)
    (hlen : k < s.schedule.length) :
    step (s.afterIterations n k) = .next (initializerStep
      ((writeCells (List.range' n k) { s with schedule := s.schedule.drop (k + 1) }).setInitializer
        (.building (n + k)))) := by
  have hsched : (s.afterIterations n k).schedule = s.schedule.drop k := afterIterations_schedule s n k
  rw [step_initializer_turn (by rw [hsched]; exact fun a ha => hall a (List.mem_of_mem_drop ha))
    (by rw [hsched, List.length_drop]; omega), hsched, List.drop_drop, State.afterIterations,
    writeCells_withSchedule _ s (s.schedule.drop k), writeCells_withSchedule _ s (s.schedule.drop (k + 1))]
  rfl

/-- A turn of the initializer that is not its last is one iteration. -/
theorem step_afterIterations_of_lt {s : State} {n k : Nat} (hall : ∀ a ∈ s.schedule, a = .initializer)
    (hlen : k < s.schedule.length) (hlt : n + k < 16384) :
    step (s.afterIterations n k) = .next (s.afterIterations n (k + 1)) := by
  rw [step_afterIterations n hall hlen, initializerStep_iteration rfl hlt, State.afterIterations,
    List.range'_1_concat, writeCells_concat]
  rfl

theorem runSteps_succ {k : Nat} {s t : State} (h : runSteps k s = .next t) : runSteps (k + 1) s = step t := by
  rw [runSteps_add k 1 s t h, runSteps]
  cases step t <;> rfl

/-- A CONSTRUCT that is given k turns makes its next k iterations. -/
theorem runSteps_iterations {s : State} {n k : Nat} (hi : s.initializer = .building n) (hk : n + k ≤ 16384)
    (hlen : k ≤ s.schedule.length) (hall : ∀ a ∈ s.schedule, a = .initializer) :
    runSteps k s = .next (s.afterIterations n k) := by
  induction k with
  | zero => rw [afterIterations_zero hi, runSteps]
  | succ k ih =>
    rw [runSteps_succ (ih (by omega) (by omega)), step_afterIterations_of_lt hall hlen hk]

/-- A CONSTRUCT that is given a turn for each iteration left and one more publishes (R74, R77). -/
theorem runSteps_publication {s : State} {n : Nat} (hi : s.initializer = .building n) (hn : n ≤ 16384)
    (hlen : s.schedule.length = 16385 - n) (hall : ∀ a ∈ s.schedule, a = .initializer) :
    runSteps (16385 - n) s =
      .next (publish (writeCells (List.range' n (16384 - n)) { s with schedule := [] })) := by
  have hsplit : 16385 - n = 16384 - n + 1 := by omega
  have hlast : s.schedule.drop (16384 - n + 1) = [] := List.drop_eq_nil_of_le (by omega)
  rw [hsplit, runSteps_succ (runSteps_iterations hi (by omega) (by omega) hall),
    step_afterIterations n hall (by omega), hlast, initializerStep_publication rfl (by omega), publish_setInitializer]

/-! ### The obligations -/

/-- Settles O18: an iteration is one write of a cell and publication is none, and every step of the initializer leaves the
interface and the parameters. -/
theorem constructWritesEachCellThenPublishes : Obligations.ConstructWritesEachCellThenPublishes := by
  intro s n hm hi hready
  refine ⟨fun hn => ?_, fun hn => ?_, initializerStep_params s, initializerStep_rst s, initializerStep_requesters s,
    initializerStep_observed s, initializerStep_schedule s, initializerStep_serving s⟩
  · rw [initializerStep_iteration hi hn, cell_setInitializer]
    exact ⟨cell_constructIteration_same s hn, fun a ha => cell_constructIteration_other s ha,
      (readReady_of_constructed _ hm).trans hready, rfl⟩
  · rw [initializerStep_publication hi hn.ge]
    exact ⟨publish_table s, readReady_publish s, rfl⟩

/-- Settles O19: the run is followed iteration by iteration from an empty table, and its last turn publishes what
`construct` gives. -/
theorem constructCompletesFromReset : Obligations.ConstructCompletesFromReset := by
  intro p turns hm hlen hall
  have hi : (State.loaded p [Requester.fresh] turns).initializer = .building 0 := by simp [hm]
  refine ⟨fun k hk => ⟨_, runSteps_iterations hi (by omega) (by simp only [loaded_schedule]; omega) hall, ?_, ?_,
    fun a => ?_⟩, ?_, readReady_construct _, fun a ha => cell_construct _ ha⟩
  · rw [readReady_of_constructed _ (by simpa using hm)]
    simp [hm]
  · simp
  · by_cases ha : a < 16384
    · rw [cell_afterIterations _ 0 k ha, cell_of_constructed_nil (State.loaded p [Requester.fresh] turns) hm rfl]
      exact if_congr (by omega) rfl rfl
    · rw [cell_of_ge _ (Nat.le_of_not_lt ha), if_neg (by omega)]
  · rw [construct, List.range_eq_range']
    exact runSteps_publication hi (Nat.zero_le _) hlen hall

/-- Settles O20: every order writes every cell, the table in canonical form is a function of the cells, and the writes
change nothing else. -/
theorem constructionOrderIsUnobservable : Obligations.ConstructionOrderIsUnobservable := by
  intro s order hwf hperm
  have horder (a : Nat) : a ∈ order ↔ a < 16384 := hperm.mem_iff.trans List.mem_range
  have htable := writeCells_table_eq rfl hwf hwf horder fun _ => List.mem_range (n := 16384)
  rw [construct, writeCells_frame, htable, ← writeCells_frame]

/-- Settles O21: CONSTRUCT writes every cell, so nothing is left of the table it started from. -/
theorem twoConstructionsAgree : Obligations.TwoConstructionsAgree := by
  intro s t hmode hs ht
  have hrange (a : Nat) : a ∈ List.range 16384 ↔ a < 16384 := List.mem_range
  rw [construct, construct, publish_table, publish_table]
  exact writeCells_table_eq hmode hs ht hrange hrange

end Sys2Proof.Machine

/-! PROOFS. The arithmetic of `VAL` (42_arithmetic.md): its factors and its product in exact arithmetic, the byte cut out of
the product, the legacy computation, and the shape of the whole table, which all comes from one fact: bits 15:2 of the
product run through every index exactly once. -/

namespace Sys2Proof.Machine

/-! ### The factors (R81, R82) -/

theorem factorA_eq_factorB_add_one (i : Index) : factorA i = factorB i + 1 := by
  have hi : i.toNat < 16384 := i.isLt
  refine BitVec.eq_of_toNat_eq ?_
  rw [BitVec.toNat_add, toNat_factorA_eq_add, toNat_factorB_eq_add]
  exact (Nat.mod_eq_of_lt (by omega : 4 * i.toNat + 2 + 1 < 65536)).symm

theorem factorB_or_one (i : Index) : factorB i ||| 1 = factorA i := BitVec.or_assoc _ _ _

theorem getLsbD_zero_factorA (i : Index) : (factorA i).getLsbD 0 = true := by simp [factorA]

theorem getLsbD_zero_factorB (i : Index) : (factorB i).getLsbD 0 = false := by simp [factorB]

/-- Settles O37: the or-operations are additions, and every range is that of `4 * i`. -/
theorem factorsOfAnIndex : Obligations.FactorsOfAnIndex := by
  intro i
  have hi : i.toNat < 16384 := i.isLt
  rw [toNat_widened_shift, Nat.shiftLeft_eq, toNat_factorA_eq_add, toNat_factorB_eq_add]
  refine ⟨by omega, by omega, rfl, rfl, by omega, by omega, by omega, by omega, by omega, by omega,
    factorA_eq_factorB_add_one i, (factorB_or_one i).symm, (factorB_xor_one i).symm, ?_, (factorA_xor_one i).symm⟩
  rw [factorA_eq_factorB_add_one, BitVec.add_sub_cancel]

/-! ### The product (R83, R85) -/

theorem toNat_mul32_factors (i : Index) :
    (mul32 (factorA i) (factorB i)).toNat = 16 * i.toNat ^ 2 + 20 * i.toNat + 6 := by
  rw [toNat_mul32, toNat_factorA_eq_add, toNat_factorB_eq_add]
  ring

theorem product_le {n : Nat} (hn : n < 16384) : 16 * n ^ 2 + 20 * n + 6 ≤ 4294770690 := by
  have hsq : n ^ 2 ≤ 16383 ^ 2 := Nat.pow_le_pow_left (by omega) 2
  omega

/-- A product needs the 32nd bit from index 11585 on. -/
theorem two_pow_31_le_product_iff (n : Nat) : 2147483647 < 16 * n ^ 2 + 20 * n + 6 ↔ 11585 ≤ n := by
  constructor
  · intro hlt
    by_contra hn
    have hsq : n ^ 2 ≤ 11584 ^ 2 := Nat.pow_le_pow_left (by omega) 2
    omega
  · intro hn
    have hsq : 11585 ^ 2 ≤ n ^ 2 := Nat.pow_le_pow_left hn 2
    omega

/-- Settles O38: the product is the exact one, a polynomial that grows with the index. -/
theorem productNeverOverflows : Obligations.ProductNeverOverflows := by
  refine ⟨fun i => ⟨toNat_mul32 _ _, ?_, ?_⟩, by decide, by decide⟩
  · rw [toNat_factorA_eq_add, toNat_factorB_eq_add]
    ring
  · rw [toNat_mul32_factors]
    exact ⟨by omega, product_le i.isLt, by omega, two_pow_31_le_product_iff _⟩

/-! ### The byte of a product (R84, R86) -/

theorem shiftRight_eight_and_mask (n : Nat) : n >>> 8 &&& 0xFF = n / 256 % 256 := by
  rw [Nat.shiftRight_eq_div_pow]
  exact Nat.and_two_pow_sub_one_eq_mod _ 8

theorem toNat_val_eq_div (i : Index) : (val i).toNat = (mul32 (factorA i) (factorB i)).toNat / 256 % 256 := by
  rw [val, toNat_bits15to8, shiftRight_eight_and_mask]

theorem toNat_val_eq_polynomial (i : Index) :
    (val i).toNat = (16 * i.toNat ^ 2 + 20 * i.toNat + 6) / 256 % 256 := by
  rw [toNat_val_eq_div, toNat_mul32_factors]

theorem bits15to8_congr {p q : Product} (h : ∀ k, 8 ≤ k → k < 16 → p.getLsbD k = q.getLsbD k) :
    bits15to8 p = bits15to8 q :=
  BitVec.eq_of_getLsbD_eq fun k hk => by
    rw [getLsbD_bits15to8 p hk, getLsbD_bits15to8 q hk]
    exact h _ (by omega) (by omega)

/-- Settles O39: bit k of the byte is bit k + 8 of the product. -/
theorem extractionIsBits15To8 : Obligations.ExtractionIsBits15To8 :=
  ⟨toNat_val_eq_div, fun _ _ => bits15to8_congr, by decide⟩

/-- Settles O41: the exact product, multiplied out. -/
theorem polynomialFormOfTheValue : Obligations.PolynomialFormOfTheValue :=
  fun i => ⟨toNat_mul32_factors i, toNat_val_eq_polynomial i⟩

/-- Bits 15:8 of a number are those of its residue modulo any multiple of 2^16. -/
theorem byte_mod_two_pow {W : Nat} (hW : 16 ≤ W) (n : Nat) : n % 2 ^ W / 256 % 256 = n / 256 % 256 := by
  have hlow : n % 2 ^ W % 65536 = n % 65536 := Nat.mod_mod_of_dvd n (Nat.pow_dvd_pow 2 hW)
  omega

theorem byte_mod_two_pow_lt {W : Nat} (hW : W ≤ 15) (n : Nat) : n % 2 ^ W / 256 % 256 < 128 := by
  have hlt : n % 2 ^ W < 2 ^ W := Nat.mod_lt n (Nat.two_pow_pos W)
  have hle : 2 ^ W ≤ 2 ^ 15 := Nat.pow_le_pow_right (by decide) hW
  omega

/-! ### Bits 15:2 of the product number the indices anew -/

/-- Bits 15:2 of the product of an index, of which the upper eight are its byte. -/
def productIndex (i : Index) : Index := (mul32 (factorA i) (factorB i)).extractLsb' 2 14

theorem toNat_productIndex (i : Index) :
    (productIndex i).toNat = (mul32 (factorA i) (factorB i)).toNat / 4 % 16384 := by
  rw [productIndex, BitVec.extractLsb'_toNat, Nat.shiftRight_eq_div_pow]

theorem toNat_val_eq_productIndex_div (i : Index) : (val i).toNat = (productIndex i).toNat / 64 := by
  rw [toNat_val_eq_div, toNat_productIndex]
  omega

theorem productIndex_eq (i : Index) : productIndex i = (4 * i + 1) * (i + 1) := by
  have hquarter : (16 * i.toNat ^ 2 + 20 * i.toNat + 6) / 4 = (4 * i.toNat + 1) * (i.toNat + 1) := by
    ring_nf
    omega
  refine BitVec.eq_of_toNat_eq ?_
  rw [toNat_productIndex, toNat_mul32_factors, hquarter]
  simp [BitVec.toNat_mul, BitVec.toNat_add, Nat.mul_mod, Nat.add_mod]

/-- Modulo 2^14 an odd number of the form 4x + 1 has an inverse, since 4x is nilpotent. -/
theorem isUnit_four_mul_add_one (x : Index) : IsUnit (4 * x + 1) := by
  have hfour : (4 : Index) ^ 7 = 0 := by decide
  have hnil : IsNilpotent (4 * x) := ⟨7, by rw [mul_pow, hfour]; exact zero_mul _⟩
  rw [add_comm]
  exact hnil.isUnit_one_add

/-- The difference of two values of `productIndex` is that of the indices times an odd number. -/
theorem productIndex_injective : Function.Injective productIndex := by
  intro i j h
  have hprod : (i - j) * (4 * (i + j + 1) + 1) = 0 := by
    rw [productIndex_eq, productIndex_eq, ← sub_eq_zero] at h
    rw [← h]
    ring
  exact sub_eq_zero.mp ((isUnit_four_mul_add_one _).mul_left_eq_zero.mp hprod)

theorem productIndex_surjective : Function.Surjective productIndex :=
  Finite.surjective_of_injective productIndex_injective

/-- Every interval of the index range is met as often as it is long. -/
theorem card_productIndex_mem_Ico (l : Nat) {u : Nat} (hu : u ≤ 16384) :
    ((Finset.univ : Finset Index).filter fun i => (productIndex i).toNat ∈ Finset.Ico l u).card = u - l := by
  rw [← Nat.card_Ico]
  refine Finset.card_nbij (fun i => (productIndex i).toNat) (fun i hi => (Finset.mem_filter.mp hi).2)
    (fun i _ j _ h => productIndex_injective (BitVec.eq_of_toNat_eq h)) fun n hn => ?_
  have hlt : n < 16384 := Nat.lt_of_lt_of_le (Finset.mem_Ico.mp hn).2 hu
  obtain ⟨i, hi⟩ := productIndex_surjective (BitVec.ofNat 14 n)
  have hin : (productIndex i).toNat = n := by rw [hi, BitVec.toNat_ofNat, Nat.mod_eq_of_lt hlt]
  exact ⟨i, by simpa [hin] using hn, hin⟩

/-- A product modulo 2^15 loses bit 15, which is bit 7 of the byte. -/
theorem byte_mod_two_pow_15_ne_iff (i : Index) :
    (val i).toNat ≠ (mul32 (factorA i) (factorB i)).toNat % 2 ^ 15 / 256 % 256 ↔
      (productIndex i).toNat ∈ Finset.Ico 8192 16384 := by
  rw [toNat_val_eq_div, toNat_productIndex, Finset.mem_Ico]
  omega

/-- Settles O42: bits 15:8 lie below bit 16; with fewer bits the byte is below 128, and half the indices have a greater
one. -/
theorem sixteenBitsOfTheProductSuffice : Obligations.SixteenBitsOfTheProductSuffice := by
  unfold Obligations.SixteenBitsOfTheProductSuffice
  simp only [← toNat_mul32, shiftRight_eight_and_mask]
  refine ⟨fun i W hW => ?_, fun W hW => ⟨45, fun h => ?_⟩, ?_⟩
  · rw [byte_mod_two_pow hW, toNat_val_eq_div]
  · have h45 : (val 45).toNat = 130 := by decide
    have hlt := byte_mod_two_pow_lt hW (mul32 (factorA 45) (factorB 45)).toNat
    omega
  · simp only [byte_mod_two_pow_15_ne_iff]
    exact card_productIndex_mem_Ico 8192 le_rfl

/-! ### The legacy computation (R87, R88) -/

theorem eq_factorB_of_bits {v : Working} (hone : v.getLsbD 1 = true) (hzero : v.getLsbD 0 = false) :
    v = factorB (formIndex v) :=
  (eq_factor_of_bit_one hone).resolve_left fun hv =>
    have hbit := (congrArg (·.getLsbD 0) hv).trans (getLsbD_zero_factorA _)
    Bool.false_ne_true (hzero.symm.trans hbit)

theorem eq_factorA_of_bits {v : Working} (hone : v.getLsbD 1 = true) (hzero : v.getLsbD 0 = true) :
    v = factorA (formIndex v) :=
  (eq_factor_of_bit_one hone).resolve_right fun hv =>
    have hbit := (congrArg (·.getLsbD 0) hv).trans (getLsbD_zero_factorB _)
    Bool.false_ne_true (hbit.symm.trans hzero)

/-- Settles O43: the working value is a factor of its index, its bit 0 says which, and flipping bit 0 gives the other. -/
theorem legacyComputationEqualsTheTable : Obligations.LegacyComputationEqualsTheTable := by
  refine ⟨fun v hone => ⟨legacyByte_eq_val hone, fun hzero => ?_, fun hzero => ?_⟩,
    fun k => ⟨by simp, formIndex_or_two k, legacyByte_or_two k⟩⟩
  · have hv := eq_factorB_of_bits hone hzero
    exact ⟨hv, (congrArg (· ^^^ 1) hv).trans (factorB_xor_one _)⟩
  · have hv := eq_factorA_of_bits hone hzero
    exact ⟨hv, (congrArg (· ^^^ 1) hv).trans (factorA_xor_one _)⟩

/-- Settles O44: the index of k is k shifted right by two. -/
theorem legacyByteIgnoresTheTwoLowBits : Obligations.LegacyByteIgnoresTheTwoLowBits := by
  intro h hh j hj
  have hshift : (BitVec.ofNat 16 (4 * h + j)).toNat >>> 2 = h := by
    rw [BitVec.toNat_ofNat, Nat.shiftRight_eq_div_pow]
    omega
  rw [legacyByte_or_two, ← valAt_shiftRight_two, hshift]

/-! ### The two halves of the table (R89) -/

theorem toNat_valAt {a : Nat} (ha : a < 16384) : (valAt a).toNat = (16 * a ^ 2 + 20 * a + 6) / 256 % 256 := by
  rw [valAt, toNat_val_eq_polynomial, BitVec.toNat_ofNat, Nat.mod_eq_of_lt ha]

theorem byte_add_half_eq_xor : ∀ b : Byte, b + 0x80 = b ^^^ 0x80 := by decide

/-- The products of i and i + 8192 differ by 2^15 and a multiple of 2^16. -/
theorem product_add_half (i : Nat) :
    16 * (i + 8192) ^ 2 + 20 * (i + 8192) + 6 = 16 * i ^ 2 + 20 * i + 6 + 256 * (128 + 256 * (4 * i + 16386)) := by
  ring

theorem valAt_add_half {i : Nat} (hi : i < 8192) : valAt (i + 8192) = valAt i ^^^ 0x80 := by
  rw [← byte_add_half_eq_xor]
  refine BitVec.eq_of_toNat_eq ?_
  rw [BitVec.toNat_add, toNat_valAt (by omega), toNat_valAt (by omega), product_add_half,
    Nat.add_mul_div_left _ _ (by decide)]
  show _ = (_ + 128) % 256
  omega

/-- Half the table's length is a multiple of every shift but zero: the shifts form a cyclic group of order 2^14. -/
theorem exists_nsmul_eq_half {p : Index} (hp : p ≠ 0) : ∃ n : Nat, n • p = 8192 := by
  have hlt : p.toNat < 2 ^ 14 := p.isLt
  have hne : p.toNat ≠ 0 := fun h => hp (BitVec.eq_of_toNat_eq h)
  obtain ⟨k, m, ⟨t, rfl⟩, hkm⟩ := Nat.exists_eq_two_pow_mul_odd hne
  have hk : k < 14 := (Nat.pow_lt_pow_iff_right (by decide)).mp
    (Nat.lt_of_le_of_lt (hkm ▸ Nat.le_mul_of_pos_right _ (Nat.succ_pos _)) hlt)
  have hmul : 2 ^ (13 - k) * p.toNat = 8192 + 16384 * t := by
    calc 2 ^ (13 - k) * p.toNat = 2 ^ (13 - k + k) * (2 * t + 1) := by rw [hkm, pow_add, mul_assoc]
      _ = 8192 + 16384 * t := by rw [Nat.sub_add_cancel (by omega)]; ring
  refine ⟨2 ^ (13 - k), BitVec.eq_of_toNat_eq ?_⟩
  rw [nsmul_eq_mul, BitVec.natCast_eq_ofNat, BitVec.toNat_mul, BitVec.toNat_ofNat, Nat.mod_mul_mod, hmul]
  exact Nat.add_mul_mod_self_left 8192 16384 t

/-- A period of the table would make 8192 one, but the entries 0 and 8192 differ. -/
theorem not_periodic_val {p : Index} (hp : p ≠ 0) : ¬ Function.Periodic val p := by
  intro hper
  obtain ⟨n, hn⟩ := exists_nsmul_eq_half hp
  have hhalf := hper.nsmul n 0
  rw [hn] at hhalf
  exact absurd hhalf (by decide)

/-- Settles O45: half the table apart, products differ in bit 15 and above only; and every period divides 2^14, so it would
divide the half. -/
theorem halfTableLaw : Obligations.HalfTableLaw :=
  ⟨fun _ => valAt_add_half, fun _ hp => not_forall.mp (not_periodic_val hp)⟩

/-! ### The distribution of the bytes (R90) -/

theorem val_eq_iff (i : Index) (b : Byte) :
    val i = b ↔ (productIndex i).toNat ∈ Finset.Ico (64 * b.toNat) (64 * b.toNat + 64) := by
  rw [← BitVec.toNat_inj, toNat_val_eq_productIndex_div, Finset.mem_Ico]
  omega

theorem card_val_eq (b : Byte) : ((Finset.univ : Finset Index).filter fun i => val i = b).card = 64 := by
  have hb : b.toNat < 256 := b.isLt
  simp only [val_eq_iff]
  rw [card_productIndex_mem_Ico _ (by omega), Nat.add_sub_cancel_left]

theorem sum_toNat_bitVec (w : Nat) : ∑ b : BitVec w, b.toNat = ∑ n ∈ Finset.range (2 ^ w), n :=
  Finset.sum_nbij BitVec.toNat (fun b _ => Finset.mem_range.mpr b.isLt) (fun _ _ _ _ => BitVec.eq_of_toNat_eq)
    (fun n hn => ⟨BitVec.ofNat w n, by simp, Nat.mod_eq_of_lt (Finset.mem_range.mp hn)⟩) fun _ _ => rfl

/-- The entries that are b sum to 64 * b. -/
theorem sum_val_eq (b : Byte) : ∑ i : Index with val i = b, (val i).toNat = 64 * b.toNat := by
  rw [← card_val_eq b, ← smul_eq_mul]
  exact Finset.sum_eq_card_nsmul fun i hi => congrArg BitVec.toNat (Finset.mem_filter.mp hi).2

theorem sum_toNat_byte : ∑ b : Byte, b.toNat = 32640 := by
  rw [sum_toNat_bitVec, Finset.sum_range_id]
  norm_num

theorem sum_val : ∑ i : Index, (val i).toNat = 2088960 :=
  calc ∑ i : Index, (val i).toNat
    _ = ∑ b : Byte, ∑ i : Index with val i = b, (val i).toNat := (Finset.sum_fiberwise _ val _).symm
    _ = ∑ b : Byte, 64 * b.toNat := Finset.sum_congr rfl fun b _ => sum_val_eq b
    _ = 64 * 32640 := by rw [← Finset.mul_sum, sum_toNat_byte]

/-- Settles O46: each byte is that of the 64 consecutive values of `productIndex` that begin with it. -/
theorem distributionOfTheTable : Obligations.DistributionOfTheTable :=
  ⟨card_val_eq, sum_val, by decide, 63, 16383, by decide, by decide⟩

end Sys2Proof.Machine

/-! PROOFS. The exception (60_exceptions.md): the response of a published block to a request is a function of its cells
and the operand, a fault exactly out of the domain; a fault changes nothing that a later response depends on; a session
that is not marked has received no fault. -/

namespace Sys2Proof.Machine

/-! ### The response to an operand, by the cells alone (R64, R97) -/

/-- The response a published block gives the operand `x`, whatever its cells hold: the byte of the cell, if it holds
one, and DomainViolation out of the domain. -/
def State.responseTo? (s : State) (x : Nat) : Option Response :=
  if x < 16384 then (s.cell x).map .byte else some (.domainViolation x)

theorem responseTo?_of_ge (s : State) {x : Nat} (hx : 16384 ≤ x) : s.responseTo? x = some (.domainViolation x) :=
  if_neg (Nat.not_lt.mpr hx)

theorem responseTo?_congr {s t : State} (h : t.cell = s.cell) : t.responseTo? = s.responseTo? := by
  funext x
  simp only [State.responseTo?, h]

/-- R97: the response is a fault exactly out of the domain. -/
theorem err_iff_of_responseTo? {s : State} {x : Nat} {resp : Response} (h : s.responseTo? x = some resp) :
    resp.err = true ↔ 16384 ≤ x := by
  by_cases hx : x < 16384
  · rw [State.responseTo?, if_pos hx] at h
    obtain ⟨d, -, rfl⟩ := Option.map_eq_some_iff.mp h
    simp [Response.err, hx]
  · rw [State.responseTo?, if_neg hx] at h
    obtain rfl := Option.some.inj h
    simp [Response.err, Nat.not_lt.mp hx]

/-- A published block serves a request by giving it the response to its operand. -/
theorem exec_next_iff {s : State} (hr : s.readReady = true) (i : Instr) (t : State) :
    exec i s = .next t ↔
      ∃ resp, s.responseTo? (operandOf i) = some resp ∧ t = s.afterResponse (operandOf i) resp := by
  by_cases hlt : operandOf i < 16384
  · rw [exec_eq, whenPublished_ready s _ hr, if_pos hlt, State.responseTo?, if_pos hlt, readAndRespond,
      memRead_of_ready s _ hr]
    cases s.cell (operandOf i) with
    | none => simp
    | some d => simp [respondByte_eq_afterResponse, eq_comm]
  · rw [exec_of_ge hr (Nat.not_lt.mp hlt), responseTo?_of_ge s (Nat.not_lt.mp hlt)]
    simp [eq_comm]

/-- The entry that a response adds to the observation tells the operand and the response. -/
theorem afterResponse_inj {s : State} {x y : Nat} {resp resp' : Response} :
    s.afterResponse x resp = s.afterResponse y resp' ↔ x = y ∧ resp = resp' := by
  refine ⟨fun h => ?_, fun ⟨hx, hresp⟩ => by rw [hx, hresp]⟩
  have hobs : s.observed ++ [⟨s.serving, x, resp⟩] = s.observed ++ [⟨s.serving, y, resp'⟩] :=
    congrArg State.observed h
  simpa using hobs

theorem exec_eq_afterResponse_iff {s : State} (hr : s.readReady = true) (i : Instr) (y : Nat) (resp : Response) :
    exec i s = .next (s.afterResponse y resp) ↔ y = operandOf i ∧ s.responseTo? (operandOf i) = some resp := by
  simp [exec_next_iff hr, afterResponse_inj, and_comm]

/-- Only a LOOKUPX can present an operand out of the domain (R50). -/
theorem operandOf_ge_iff (i : Instr) : 16384 ≤ operandOf i ↔ ∃ x, i = .lookupx x ∧ 16384 ≤ x := by
  cases i with
  | lookup idx => simpa [operandOf] using idx.isLt
  | lookupx x => simp [operandOf]

/-! ### Marks (R106) -/

/-- A session that is not marked has received no fault. -/
theorem State.Inv.err_eq_false_of_unmarked {s : State} (h : s.Inv) {q : Requester} {o : Observation}
    (ho : o ∈ s.observed) (hq : s.requesters[o.requester]? = some q) (hmark : q.faulted = false) :
    o.outcome.err = false := by
  by_contra herr
  obtain ⟨p, hp, hpmark⟩ := h.marks o ho (Bool.eq_true_of_not_eq_false herr)
  obtain rfl : q = p := Option.some.inj (hq.symm.trans hp)
  exact Bool.false_ne_true (hmark.symm.trans hpmark)

theorem lt_of_expectedResponse_err {x : Nat} (h : (expectedResponse x).err = false) : x < 16384 := by
  by_contra hx
  rw [expectedResponse_of_ge (Nat.not_lt.mp hx)] at h
  exact absurd h (by simp [Response.err])

/-! ### The obligations -/

/-- Settles O11: a served request gets the response to its operand, which is a fault exactly out of the domain, where no
cell is read and where only a LOOKUPX can present an operand. -/
theorem domainViolationExactlyOutOfDomain : Obligations.DomainViolationExactlyOutOfDomain := by
  refine ⟨fun x s hx hr => ⟨_, exec_of_ge hr (i := .lookupx x) hx⟩, fun i s t hr hx => ?_, initializerStep_observed⟩
  obtain ⟨resp, hresp, rfl⟩ := (exec_next_iff hr i t).mp hx
  refine ⟨⟨s.serving, operandOf i, resp⟩, rfl, rfl,
    (err_iff_of_responseTo? hresp).trans (operandOf_ge_iff i), fun x hi hge => ?_⟩
  subst hi
  obtain rfl := Option.some.inj ((responseTo?_of_ge s hge).symm.trans hresp)
  exact ⟨rfl, rfl, rfl, rfl, fun _ => Response.noConfusion, rfl, rfl⟩

/-- Settles O12: a fault changes no cell, and on the cells and the operand alone depends the response to any later
request. -/
theorem blockServesNormallyAfterAFault : Obligations.BlockServesNormallyAfterAFault := by
  intro x s t hx hr hfault
  obtain ⟨hcell, hready⟩ := sameTableAndReady_exec hfault
  have htable : t.table = s.table := by
    obtain ⟨resp, -, rfl⟩ := (exec_next_iff hr (.lookupx x) t).mp hfault
    rfl
  have hserved (r : Nat) : State.readReady { t with serving := r } = true := hready.trans hr
  refine ⟨htable, hready, fun r => exec_of_ge (hserved r) (i := .lookupx x) hx, fun i r y resp hbefore => ?_⟩
  have hsame : State.responseTo? { t with serving := r } = State.responseTo? { s with serving := r } :=
    responseTo?_congr hcell
  obtain ⟨hy, hresp⟩ := (exec_eq_afterResponse_iff (s := { s with serving := r }) hr i y resp).mp hbefore
  exact (exec_eq_afterResponse_iff (hserved r) i y resp).mpr ⟨hy, by rw [hsame, hresp]⟩

/-- Settles O48: along every run a fault marks its session for good, so what an unmarked session has received are bytes,
each the one of its operand. -/
theorem unmarkedSessionsReceivedOnlyKeystream : Obligations.UnmarkedSessionsReceivedOnlyKeystream := by
  intro p requesters schedule k t r q hpw hidle hrun hq hmark o ho hreq
  subst hreq
  have hinv : t.Inv := inv_runSteps k (inv_loaded p requesters schedule hpw hidle) hrun
  have hout : o.outcome = expectedResponse o.operand := hinv.responses o ho
  have hlt : o.operand < 16384 := lt_of_expectedResponse_err (hout ▸ hinv.err_eq_false_of_unmarked ho hq hmark)
  have hbyte : o.outcome = .byte (valAt o.operand) := hout.trans (expectedResponse_of_lt hlt)
  refine ⟨hlt, hbyte, fun v hv => ?_⟩
  rw [hbyte, legacyByte_or_two, ← hv, valAt_toNat]

end Sys2Proof.Machine

/-! PROOFS. Reset and hazards (70_reset_and_hazards.md): a request waits while READY is 0 and is served once CONSTRUCT
has published (R122); what the two edges of reset do to the block and to the requesters in each mode (R116, R117, R120). -/

namespace Sys2Proof.Machine

/-! ### The hold (R122) -/

/-- The block finds no request at the port of a requester, or one it can take up: an outstanding word is a word of the
port. -/
theorem State.Inv.fetch_cases {s : State} (h : s.Inv) (r : Nat) :
    fetch r s = .nothing ∨ ∃ i, fetch r s = .request i { s with serving := r } := by
  cases hq : s.requesters[r]? with
  | none => exact .inl (by simp [fetch, hq])
  | some q =>
    cases hw : q.waiting with
    | none => exact .inl (by simp [fetch, hq, hw])
    | some w =>
      obtain ⟨i, hi, -⟩ := exists_decode_of_lt h.port (h.words q (List.mem_of_getElem? hq) w hw)
      exact .inr ⟨i, fetch_of_waiting r s q w i hq hw hi⟩

/-- While READY is 0 the turn of a service is taken off the schedule, and at most the requester being served changes. -/
theorem step_service_held {s : State} {r : Nat} {rest : List Agent} (h : s.Inv) (hr : s.readReady = false)
    (hs : s.schedule = .service r :: rest) :
    ∃ k, step s = .next { s with schedule := rest, serving := k } := by
  have hturn : State.Inv { s with schedule := rest } := h.with_turn s.serving rest
  rw [step, pickAgent_cons s _ _ hs]
  rcases hturn.fetch_cases r with hf | ⟨i, hf⟩
  · exact ⟨s.serving, by simp only [hf]⟩
  · have hheld : State.readReady { s with schedule := rest, serving := r } = false := hr
    exact ⟨r, by simp only [hf, exec_of_held hheld]⟩

/-- A step that starts with READY = 0 gives no response. -/
theorem step_observed_of_held {s t : State} (h : s.Inv) (hr : s.readReady = false) (hs : step s = .next t) :
    t.observed = s.observed := by
  by_contra hne
  obtain ⟨hready, -⟩ := responsesComeOnlyFromAPublishedTable s t h hs hne
  exact Bool.false_ne_true (hr.symm.trans hready)

/-- Nor does a run whose steps all start with READY = 0, whoever moves. -/
theorem runSteps_observed_of_held (k : Nat) {s t : State} (h : s.Inv) (hrun : runSteps k s = .next t)
    (hheld : ∀ j w, j < k → runSteps j s = .next w → w.readReady = false) : t.observed = s.observed := by
  induction k generalizing s with
  | zero =>
    cases hrun
    rfl
  | succ k ih =>
    rw [runSteps] at hrun
    split at hrun
    next u hu =>
      have hfirst : u.observed = s.observed := step_observed_of_held h (hheld 0 s (Nat.succ_pos k) rfl) hu
      refine (ih (inv_step h hu) hrun fun j w hj hw => hheld (j + 1) w (Nat.succ_lt_succ hj) ?_).trans hfirst
      rwa [runSteps, hu]
    next => cases hrun
    next => cases hrun

/-! ### CONSTRUCT and the interface -/

@[simp] theorem writeCells_requesters (order : List Nat) (s : State) :
    (writeCells order s).requesters = s.requesters := by
  rw [writeCells_frame]

@[simp] theorem writeCells_observed (order : List Nat) (s : State) : (writeCells order s).observed = s.observed := by
  rw [writeCells_frame]

@[simp] theorem afterIterations_observed (s : State) (n k : Nat) : (s.afterIterations n k).observed = s.observed := by
  simp [State.afterIterations]

/-- R77: a running CONSTRUCT has not published, so READY is 0. -/
theorem State.Phase.readReady_of_building {s : State} {n : Nat} (h : s.Phase) (hi : s.initializer = .building n) :
    s.readReady = false :=
  Bool.eq_false_iff.mpr fun hr => h.not_building_of_ready hr n hi

/-- READY is 0 after every iteration, and none gives a response. -/
theorem held_after_iterations {s t : State} {n k : Nat} (h : s.Inv) (hi : s.initializer = .building n)
    (hk : n + k ≤ 16384) (hlen : k ≤ s.schedule.length) (hall : ∀ a ∈ s.schedule, a = .initializer)
    (hrun : runSteps k s = .next t) : t.readReady = false ∧ t.observed = s.observed := by
  obtain rfl : t = s.afterIterations n k :=
    Host.Outcome.next.inj (hrun.symm.trans (runSteps_iterations hi hk hlen hall))
  have hphase := (inv_runSteps k h hrun).phase
  exact ⟨hphase.readReady_of_building (afterIterations_initializer s n k), afterIterations_observed s n k⟩

/-- A running CONSTRUCT that is given its turns comes to publish, every cell at its value, and touches neither the
requesters nor the observation. -/
theorem exists_published {s : State} {n : Nat} (h : s.Inv) (hi : s.initializer = .building n)
    (hlen : s.schedule.length = 16385 - n) (hall : ∀ a ∈ s.schedule, a = .initializer) :
    ∃ t, runSteps (16385 - n) s = .next t ∧ t.readReady = true ∧ (∀ a, a < 16384 → t.cell a = some (valAt a)) ∧
      t.requesters = s.requesters ∧ t.observed = s.observed := by
  obtain ⟨-, hn, -⟩ := (phase_building_iff hi).mp h.phase
  have hrun := runSteps_publication hi hn hlen hall
  have hready := readReady_publish (writeCells (List.range' n (16384 - n)) { s with schedule := [] })
  exact ⟨_, hrun, hready, (inv_runSteps _ h hrun).phase.cell_of_ready hready, by simp, by simp⟩

/-! ### The edges of reset -/

/-- After the turn of a release the reset input is not asserted, whether it was before or not. -/
@[simp] theorem releaseReset_rst (s : State) : (releaseReset s).rst = false := by
  cases hrst : s.rst with
  | false => rwa [releaseReset_of_not_asserted hrst]
  | true => cases hm : s.params.initMode <;> simp [releaseReset, hrst, hm]

theorem readReady_assertReset_of_constructed {s : State} (hm : s.params.initMode = .constructed) :
    (assertReset s).readReady = false := by
  rw [readReady_of_constructed _ (by rwa [assertReset_params]), assertReset_of_constructed hm]

theorem cell_assertReset_of_constructed {s : State} (hm : s.params.initMode = .constructed) (a : Nat) :
    (assertReset s).cell a = none :=
  cell_of_constructed_nil _ (by rwa [assertReset_params]) (by rw [assertReset_of_constructed hm]) a

theorem waiting_of_mem_assertReset {s : State} {q : Requester} (hq : q ∈ (assertReset s).requesters) :
    q.waiting = none := by
  rw [assertReset_requesters] at hq
  obtain ⟨p, -, rfl⟩ := List.mem_map.mp hq
  rfl

/-- R117: the release starts CONSTRUCT. -/
theorem initializer_releaseReset_of_constructed {s : State} (hrst : s.rst = true)
    (hm : s.params.initMode = .constructed) : (releaseReset s).initializer = .building 0 := by
  rw [releaseReset_of_constructed hrst hm]

/-- The state that the assertion of reset leaves, with its release and then `turns` to come. -/
def State.underReset (s : State) (turns : List Agent) : State :=
  assertReset { s with schedule := .releaseReset :: turns }

/-- The state that the release leaves. -/
def State.afterReset (s : State) (turns : List Agent) : State :=
  releaseReset { s.underReset turns with schedule := turns }

theorem step_to_underReset {s : State} {turns : List Agent} (hs : s.schedule = .assertReset :: .releaseReset :: turns) :
    step s = .next (s.underReset turns) :=
  step_assertReset (pickAgent_cons s _ _ hs)

theorem step_underReset (s : State) (turns : List Agent) :
    step (s.underReset turns) = .next (s.afterReset turns) :=
  step_releaseReset (pickAgent_cons _ _ _ (assertReset_schedule _))

@[simp] theorem underReset_observed (s : State) (turns : List Agent) : (s.underReset turns).observed = s.observed :=
  assertReset_observed _

@[simp] theorem afterReset_observed (s : State) (turns : List Agent) : (s.afterReset turns).observed = s.observed :=
  (releaseReset_observed _).trans (underReset_observed s turns)

@[simp] theorem afterReset_schedule (s : State) (turns : List Agent) : (s.afterReset turns).schedule = turns :=
  releaseReset_schedule _

theorem afterReset_initializer {s : State} (hm : s.params.initMode = .constructed) (turns : List Agent) :
    (s.afterReset turns).initializer = .building 0 :=
  initializer_releaseReset_of_constructed (assertReset_rst _) ((assertReset_params _).symm ▸ hm)

/-! ### The obligations -/

/-- Settles O15: a held request has no step, CONSTRUCT publishes after one turn for each iteration left and one more and
touches no requester, and a published block answers. -/
theorem requestsAreHeldUntilPublication : Obligations.RequestsAreHeldUntilPublication := by
  refine ⟨fun s i hr => exec_of_held hr i, fun s r rest h hr hs => step_service_held h hr hs,
    fun s n h hi hlen hall => ?_, fun s r rest q w h hr hs hq hw => step_service h hr hs hq hw,
    readReady_of_constant⟩
  obtain ⟨t, hrun, hready, -, hreq, hobs⟩ := exists_published h hi hlen hall
  exact ⟨t, hrun, hready, hreq, hobs⟩

/-- Settles O23: in CONSTANT mode READY is 1, so the table is published before the step, and the only step that ends a
publication is one of CONSTRUCTED mode. -/
theorem resetChangesNothingInConstantMode : Obligations.ResetChangesNothingInConstantMode := by
  intro s t _ h hm _ hs
  have hr : s.readReady = true := readReady_of_constant s hm
  rcases (publishedTableNeverChanges s t h hr hs).2 with ⟨hcell, hready⟩ | ⟨-, hconstructed⟩
  · have hval (a : Nat) (ha : a < 16384) : s.cell a = some (valAt a) := h.phase.cell_of_ready hr a ha
    exact ⟨fun a ha => ⟨hval a ha, (hcell a).trans (hval a ha)⟩, hr, hready⟩
  · rw [hm] at hconstructed
    cases hconstructed

/-- Settles O47: each edge of reset is one step, and each field of its state is known. -/
theorem assertionOfResetAbandonsRequests : Obligations.AssertionOfResetAbandonsRequests := by
  refine fun s rest => ⟨fun hs => ⟨_, step_assertReset (pickAgent_cons s _ _ hs), ?_⟩,
    fun hs => ⟨_, step_releaseReset (pickAgent_cons s _ _ hs), ?_⟩⟩
  · exact ⟨assertReset_rst _, assertReset_requesters _, assertReset_observed _, assertReset_params _,
      assertReset_serving _, assertReset_schedule _⟩
  · exact ⟨releaseReset_rst _, releaseReset_requesters _, releaseReset_observed _, releaseReset_params _,
      releaseReset_serving _, releaseReset_schedule _⟩

/-- Settles O24: the assertion clears the block, a run that never finds READY = 1 gives no response, and the release
starts a CONSTRUCT that holds READY at 0 until it publishes every cell. -/
theorem resetRebuildsTheTableInConstructedMode : Obligations.ResetRebuildsTheTableInConstructedMode := by
  intro s turns h hm hs hlen hall
  have hassert := step_to_underReset hs
  have hrelease := step_underReset s turns
  have hunder : (s.underReset turns).Inv := inv_step h hassert
  have hafter : (s.afterReset turns).Inv := inv_step hunder hrelease
  have hi := afterReset_initializer hm turns
  have hobs := afterReset_observed s turns
  rw [← afterReset_schedule s turns] at hlen hall
  obtain ⟨v, hpublish, hvready, hvcell, -, hvobs⟩ := exists_published hafter hi hlen hall
  refine ⟨s.underReset turns, s.afterReset turns, v,
    hassert, readReady_assertReset_of_constructed hm, cell_assertReset_of_constructed hm,
    fun q hq => waiting_of_mem_assertReset hq, underReset_observed s turns, assertReset_rst _,
    fun moves k v' hrun hheld => ?_,
    hrelease, hafter.phase.readReady_of_building hi, hi, releaseReset_rst _, hobs,
    fun k v' hk hrun => ?_, hpublish, hvready, hvcell, hvobs.trans hobs⟩
  · have hinv : State.Inv { s.underReset turns with schedule := moves } := hunder.with_turn _ moves
    exact (runSteps_observed_of_held k hinv hrun hheld).trans (underReset_observed s turns)
  · obtain ⟨hready, hsame⟩ := held_after_iterations hafter hi (by omega) (by omega) hall hrun
    exact ⟨hready, hsame.trans hobs⟩

end Sys2Proof.Machine

/-! PROOFS. Request words (30_encoding.md): the decoder on every number, by the width of the port, and the two round trips
between words and requests. -/

namespace Sys2Proof.Machine

/-! ### The decoder, by the width of the port (R50, R51, R53) -/

theorem fieldIdx_eq_mod (w : Nat) : fieldIdx w = w % 16384 := rfl

theorem decode_narrow {w : Nat} (hw : w < 2 ^ 14) : decode 14 w = .ok (.lookup (BitVec.ofNat 14 w)) := by
  rw [decode, if_neg (by decide), if_neg (Nat.not_le.mpr hw), if_pos rfl, fieldIdx_eq_mod,
    Nat.mod_eq_of_lt (show w < 16384 from hw)]

/-- The two fields of a word of a wide port make up the word. -/
theorem decode_wide {pw w : Nat} (hpw : 15 ≤ pw) (hw : w < 2 ^ pw) : decode pw w = .ok (.lookupx w) := by
  rw [decode, if_neg (by omega), if_neg (Nat.not_le.mpr hw), if_neg (by omega), fieldHi_eq_div hpw hw, fieldIdx_eq_mod,
    Nat.div_add_mod']

theorem decode_of_port_too_narrow {pw : Nat} (hpw : pw < 14) (w : Nat) : decode pw w = .error (.portTooNarrow pw) :=
  if_pos hpw

theorem decode_of_word_too_wide {pw w : Nat} (hpw : 14 ≤ pw) (hw : 2 ^ pw ≤ w) :
    decode pw w = .error (.wordTooWide pw w) := by
  rw [decode, if_neg (Nat.not_lt.mpr hpw), if_pos hw]

/-! ### The encoder and the well-formed requests -/

/-- A request word is the operand, whole (R51, R58). -/
theorem encode_eq_operandOf (i : Instr) : encode i = operandOf i := by
  cases i with
  | lookup idx => rfl
  | lookupx x =>
    rw [encode, operandOf, ← Nat.shiftLeft_add_eq_or_of_lt (Nat.mod_lt x (by decide)), Nat.shiftLeft_eq]
    exact Nat.div_add_mod' x 16384

theorem wellFormed_lookup_iff {pw : Nat} {idx : Index} : (Instr.lookup idx).wellFormed pw = true ↔ pw = 14 := by
  simp [Instr.wellFormed]

theorem wellFormed_lookupx_iff {pw x : Nat} : (Instr.lookupx x).wellFormed pw = true ↔ 15 ≤ pw ∧ x < 2 ^ pw := by
  simp [Instr.wellFormed]

/-! ### The obligations -/

/-- Settles O1: the word is the operand, and the decoder makes of it the operation that the port carries. -/
theorem decodeOfEncodeIsTheRequest : Obligations.DecodeOfEncodeIsTheRequest := by
  intro pw i hi
  rw [encode_eq_operandOf]
  cases i with
  | lookup idx =>
    obtain rfl := wellFormed_lookup_iff.mp hi
    rw [operandOf, decode_narrow idx.isLt, BitVec.ofNat_toNat, BitVec.setWidth_eq]
  | lookupx x =>
    obtain ⟨hpw, hx⟩ := wellFormed_lookupx_iff.mp hi
    exact decode_wide hpw hx

/-- Settles O2: a number that decodes is a word of the port, and on the port of each kind its request is known. -/
theorem encodeOfDecodeIsTheWord : Obligations.EncodeOfDecodeIsTheWord := by
  intro pw w i hdec
  rw [encode_eq_operandOf]
  rcases Nat.lt_or_ge pw 14 with hpw | hpw
  · simp [decode_of_port_too_narrow hpw] at hdec
  rcases Nat.lt_or_ge w (2 ^ pw) with hw | hw
  · rcases hpw.eq_or_lt with rfl | hwide
    · obtain rfl := Except.ok.inj ((decode_narrow hw).symm.trans hdec)
      exact ⟨Nat.mod_eq_of_lt hw, wellFormed_lookup_iff.mpr rfl⟩
    · obtain rfl := Except.ok.inj ((decode_wide hwide hw).symm.trans hdec)
      exact ⟨rfl, wellFormed_lookupx_iff.mpr ⟨hwide, hw⟩⟩
  · simp [decode_of_word_too_wide hpw hw] at hdec

/-- Settles O3: the decoder's four cases. -/
theorem everyWordOfAPortIsOneRequest : Obligations.EveryWordOfAPortIsOneRequest :=
  fun pw w => ⟨fun hpw hw => hpw ▸ decode_narrow hw, decode_wide, fun hpw => decode_of_port_too_narrow hpw w,
    decode_of_word_too_wide⟩

/-- Settles O4: each word is decoded on the port of its width. -/
theorem sampleWordsDecode : Obligations.SampleWordsDecode := by
  unfold Obligations.SampleWordsDecode
  decide

end Sys2Proof.Machine

/-! PROOFS. The step of the machine as a whole: it keeps the invariant and the marks, runs the request it takes up, and
stops only at a call that cannot be presented. -/

namespace Sys2Proof.Machine

/-! ### A requester's turn (R6, R70) -/

/-- Requester `r` of the list is `q`, which waits for nothing and has the call `c` to make, then `rest`. -/
def CanPresent (l : List Requester) (r : Nat) (q : Requester) (c : Call) (rest : List Call) : Prop :=
  l[r]? = some q ∧ q.waiting = none ∧ q.script = c :: rest

theorem requesterStep_of_presentable {s : State} {r w : Nat} {q : Requester} {c : Call} {rest : List Call}
    (h : CanPresent s.requesters r q c rest) (hw : toOperand s.params.pw c.value = some w) :
    requesterStep r s =
      .next { s with requesters := s.requesters.set r { q with script := rest, waiting := some w } } := by
  obtain ⟨hq, hidle, hscript⟩ := h
  simp only [requesterStep, hq, hidle, hscript, hw]

theorem requesterStep_of_unpresentable {s : State} {r : Nat} {q : Requester} {c : Call} {rest : List Call}
    (h : CanPresent s.requesters r q c rest) (hw : toOperand s.params.pw c.value = none) :
    requesterStep r s = .refused (.notPresentable c.value) := by
  obtain ⟨hq, hidle, hscript⟩ := h
  simp only [requesterStep, hq, hidle, hscript, hw]

theorem requesterStep_of_not_canPresent {s : State} {r : Nat} (h : ∀ q c rest, ¬ CanPresent s.requesters r q c rest) :
    requesterStep r s = .next s := by
  unfold requesterStep
  split
  next => rfl
  next q hq =>
    split
    next c rest hidle hscript => exact absurd ⟨hq, hidle, hscript⟩ (h q c rest)
    next => rfl

theorem requesterStep_of_waiting {s : State} {r w : Nat} {q : Requester} (hq : s.requesters[r]? = some q)
    (hw : q.waiting = some w) : requesterStep r s = .next s := by
  refine requesterStep_of_not_canPresent fun p c rest ⟨hp, hidle, _⟩ => ?_
  obtain rfl := Option.some.inj (hq.symm.trans hp)
  simp [hw] at hidle

/-- A requester's turn has a next state, but where the call it has to make cannot be presented. -/
theorem requesterStep_next_or_refused (r : Nat) (s : State) :
    (∃ t, requesterStep r s = .next t) ∨
    (∃ q c rest, CanPresent s.requesters r q c rest ∧ toOperand s.params.pw c.value = none ∧
      requesterStep r s = .refused (.notPresentable c.value)) := by
  by_cases h : ∃ q c rest, CanPresent s.requesters r q c rest
  · obtain ⟨q, c, rest, h⟩ := h
    cases hw : toOperand s.params.pw c.value with
    | some w => exact .inl ⟨_, requesterStep_of_presentable h hw⟩
    | none => exact .inr ⟨q, c, rest, h, hw, requesterStep_of_unpresentable h hw⟩
  · exact .inl ⟨s, requesterStep_of_not_canPresent fun q c rest hc => h ⟨q, c, rest, hc⟩⟩

/-! ### The service of a request -/

/-- Held or answered, a request always has a next state: the block never faults (R101). -/
theorem exists_exec_next {s : State} (h : s.Inv) (i : Instr) : ∃ t, exec i s = .next t := by
  cases hr : s.readReady with
  | false => exact ⟨s, exec_of_held hr i⟩
  | true => exact ⟨_, exec_of_ready h.phase hr i⟩

/-- The service of a requester runs the request that its outstanding word decodes to. -/
theorem step_of_pickAgent_service {s t : State} {r w : Nat} {q : Requester} {i : Instr}
    (hp : pickAgent s = (.service r, t)) (hq : t.requesters[r]? = some q) (hw : q.waiting = some w)
    (hdec : decode t.params.pw w = .ok i) : step s = exec i { t with serving := r } := by
  simp only [step, hp, fetch_of_waiting r t q w i hq hw hdec]

theorem exists_step_of_service {s t : State} {r : Nat} (h : t.Inv) (hp : pickAgent s = (.service r, t)) :
    ∃ s', step s = .next s' := by
  rcases h.fetch_cases r with hf | ⟨i, hf⟩
  · exact ⟨t, by simp only [step, hp, hf]⟩
  · have hserved : State.Inv { t with serving := r } := h.with_turn r t.schedule
    simpa only [step, hp, hf] using exists_exec_next hserved i

/-- The service of a requester that waits for nothing changes nothing. -/
theorem step_of_nothing_waiting {s t : State} {r : Nat} (hp : pickAgent s = (.service r, t))
    (hnone : ∀ q, t.requesters[r]? = some q → q.waiting = none) : step s = .next t := by
  have hfetch : fetch r t = .nothing := by
    cases hq : t.requesters[r]? with
    | none => simp only [fetch, hq]
    | some q => simp only [fetch, hq, hnone q hq]
  simp only [step, hp, hfetch]

/-- The service of a waiting requester, in a published state, answers its operand. -/
theorem step_answers {s t : State} {r w : Nat} {q : Requester} (h : t.Inv) (hr : t.readReady = true)
    (hp : pickAgent s = (.service r, t)) (hq : t.requesters[r]? = some q) (hw : q.waiting = some w) :
    step s = .next (State.afterResponse { t with serving := r } w (expectedResponse w)) := by
  obtain ⟨i, hdec, rfl⟩ := exists_decode_of_lt h.port (h.words q (List.mem_of_getElem? hq) w hw)
  have hserved : State.Inv { t with serving := r } := h.with_turn r t.schedule
  rw [step_of_pickAgent_service hp hq hw hdec]
  exact exec_of_ready hserved.phase hr i

/-! ### Who moves when nothing is scheduled (notes/assumptions/5.md) -/

/-- The agent that moves by default, as the requesters alone say it: the lowest-numbered waiting one is served, then the
lowest-numbered one that has a call presents it. -/
def defaultAmongRequesters (l : List Requester) : Agent :=
  match l.findIdx? Requester.isWaiting with
  | some r => .service r
  | none =>
    match l.findIdx? Requester.hasCalls with
    | some r => .requester r
    | none => .idle

theorem defaultAgent_of_not_building {s : State} (hi : ∀ k, s.initializer ≠ .building k) :
    defaultAgent s = defaultAmongRequesters s.requesters := by
  unfold defaultAgent
  split
  next k hk => exact absurd hk (hi k)
  next => rfl

theorem defaultAgent_eq_service {s : State} {r w : Nat} {q : Requester} (hi : ∀ k, s.initializer ≠ .building k)
    (hq : s.requesters[r]? = some q) (hw : q.waiting = some w)
    (hlow : ∀ j p, j < r → s.requesters[j]? = some p → p.waiting = none) : defaultAgent s = .service r := by
  have hfind : s.requesters.findIdx? Requester.isWaiting = some r := by
    obtain ⟨hlt, rfl⟩ := List.getElem?_eq_some_iff.mp hq
    refine List.findIdx?_eq_some_iff_getElem.mpr ⟨hlt, by simp [Requester.isWaiting, hw], fun j hj => ?_⟩
    simp [Requester.isWaiting, hlow j _ hj (List.getElem?_eq_getElem (hj.trans hlt))]
  rw [defaultAgent_of_not_building hi, defaultAmongRequesters, hfind]

/-! ### Marks (R106) -/

theorem marksKept_exec {i : Instr} {s t : State} (hx : exec i s = .next t) : MarksKept s.requesters t.requesters := by
  rcases exec_held_or_afterResponse hx with rfl | ⟨resp, rfl, -⟩
  · exact marksKept_refl _
  · exact marksKept_modify _ _ _ fun q hq => by simp [hq]

theorem marksKept_requesterStep {r : Nat} {s t : State} (h : requesterStep r s = .next t) :
    MarksKept s.requesters t.requesters := by
  rcases requesterStep_cases r s t h with rfl | ⟨q, c, rest, w, hq, -, -, -, rfl⟩
  · exact marksKept_refl _
  · exact marksKept_set hq rfl

theorem marksKept_step {s t : State} (hs : step s = .next t) : MarksKept s.requesters t.requesters := by
  obtain ⟨rest, u, rfl, hu⟩ := step_cases s t hs
  rcases hu with rfl | ⟨r, i, q, w, -, -, -, hx⟩ | rfl | ⟨r, hr⟩ | rfl | rfl
  · exact marksKept_refl _
  · have hserved := marksKept_exec hx
    exact hserved
  · rw [initializerStep_requesters]
    exact marksKept_refl _
  · have hpresented := marksKept_requesterStep hr
    exact hpresented
  · rw [assertReset_requesters]
    exact marksKept_abandoned _
  · rw [releaseReset_requesters]
    exact marksKept_refl _

/-! ### The load of a word (notes/assumptions/4.md) -/

theorem decode_tableWord {nbits w : Nat} {i : Instr} (h : decodeTableWord nbits w = some i) :
    decode (portFor nbits) (tableWord nbits w) = .ok i := by
  unfold decodeTableWord at h
  split at h
  next j hj => exact hj.trans (congrArg Except.ok (Option.some.inj h))
  next => cases h

theorem placeWord_waiting (w : Nat) (l : List Requester) :
    ∃ q, (placeWord w l)[0]? = some q ∧ q.waiting = some w := by
  cases l with
  | nil => exact ⟨_, rfl, rfl⟩
  | cons q rest => exact ⟨_, rfl, rfl⟩

/-! ### The obligations -/

/-- Settles O26: each of the agents' operations keeps the invariant, and a step is one of them. -/
theorem everyStepKeepsTheInvariant : Obligations.EveryStepKeepsTheInvariant := fun _ _ h hs => inv_step h hs

/-- Settles O29: the initializer, the two edges of reset and an idle turn always have a next state, and so has a service,
whose word is a word of the port; a requester's turn is refused only at a call that cannot be presented. -/
theorem stepStopsOnlyAtAnUnpresentableCall : Obligations.StepStopsOnlyAtAnUnpresentableCall := by
  intro s h
  obtain ⟨left, hleft⟩ := pickAgent_snd s
  obtain ⟨agent, hagent⟩ : ∃ agent, pickAgent s = (agent, { s with schedule := left }) := ⟨_, Prod.ext rfl hleft⟩
  have hturn : State.Inv { s with schedule := left } := h.with_turn s.serving left
  cases agent with
  | service r => exact .inl (exists_step_of_service hturn hagent)
  | initializer => exact .inl ⟨_, step_initializer hagent⟩
  | requester r =>
    rw [step_requester hagent]
    refine (requesterStep_next_or_refused r _).imp id fun ⟨q, c, rest, ⟨hq, hidle, hscript⟩, hw, hrefused⟩ => ?_
    exact ⟨r, q, c, rest, by rw [hagent], hq, hidle, hscript, hw, hrefused⟩
  | assertReset => exact .inl ⟨_, step_assertReset hagent⟩
  | releaseReset => exact .inl ⟨_, step_releaseReset hagent⟩
  | idle => exact .inl ⟨_, step_idle hagent⟩

/-- Settles O30: a service sets a mark or leaves it, and no other operation touches one. -/
theorem faultMarkIsNeverCleared : Obligations.FaultMarkIsNeverCleared := fun _ _ r q hs => marksKept_step hs r q

/-- Settles O6: the agent that moves is the service of r, by the schedule or by default. -/
theorem stepRunsTheOutstandingRequest : Obligations.StepRunsTheOutstandingRequest := by
  refine fun s r q w i hq hw hdec => ⟨fun rest hs => ?_, fun hs hi hlow => ?_⟩
  · exact step_of_pickAgent_service (pickAgent_cons s _ _ hs) hq hw hdec
  · have hp : pickAgent s = (.service r, s) := by rw [pickAgent_nil s hs, defaultAgent_eq_service hi hq hw hlow]
    exact step_of_pickAgent_service hp hq hw hdec

/-- Settles O7: the word placed is outstanding at requester 0, whose service is first on the schedule. -/
theorem placedWordIsRunByTheNextStep : Obligations.PlacedWordIsRunByTheNextStep := by
  intro s nbits w i hdec
  obtain ⟨q, hq, hw⟩ := placeWord_waiting (tableWord nbits w) s.requesters
  have hrun := (stepRunsTheOutstandingRequest (s.withFetchWord nbits w) 0 q _ i hq hw (decode_tableWord hdec)).1 _ rfl
  exact ⟨_, hrun, rfl, rfl, rfl, rfl, rfl, rfl, rfl, rfl, rfl⟩

/-- Settles O13: behind READY a read is the cell, which holds `VAL` in the table space and does not exist out of it. -/
theorem readIsDefinedOnlyBehindReady : Obligations.ReadIsDefinedOnlyBehindReady := by
  intro s a h
  cases hr : s.readReady with
  | false => simp [memRead, hr]
  | true =>
    rw [memRead_of_ready s a hr]
    by_cases ha : a < 16384
    · rw [if_pos ⟨rfl, ha⟩, h.cell_of_ready hr ha]
    · rw [if_neg fun hlt => ha hlt.2, cell_of_ge s (Nat.le_of_not_lt ha)]

/-- Settles O14: the fields of the two responses. -/
theorem responseFields : Obligations.ResponseFields := ⟨fun _ => ⟨rfl, rfl, rfl⟩, fun _ => ⟨rfl, rfl, rfl⟩⟩

/-- Settles O25: a reset state is a loaded one whose only requester asks for nothing. -/
theorem invariantHoldsAfterReset : Obligations.InvariantHoldsAfterReset := by
  have hreset (p : BlockParams) (hpw : 14 ≤ p.pw) : (State.resetOf p).Inv :=
    inv_loaded p [Requester.fresh] [] hpw (by simp [Requester.fresh])
  exact ⟨hreset BlockParams.standard (by decide), hreset⟩

/-- Settles O34: a requester that waits cannot present, and one whose call can be presented is changed by that alone. -/
theorem requesterWaitsForEachResponse : Obligations.RequesterWaitsForEachResponse :=
  ⟨fun _ _ _ _ => requesterStep_of_waiting, fun _ _ _ _ _ _ hq hidle hscript =>
    requesterStep_of_presentable ⟨hq, hidle, hscript⟩⟩

end Sys2Proof.Machine

/-! PROOFS. A request held by CONSTRUCT with nothing scheduled: the initializer moves until publication, then the block
answers the lowest-numbered requester that waits (R126, R122). -/

namespace Sys2Proof.Machine

/-! ### CONSTRUCT with nothing scheduled (notes/assumptions/5.md, 6.md) -/

/-- With nothing scheduled a running CONSTRUCT moves. -/
theorem step_initializer_default {s : State} {n : Nat} (hs : s.schedule = []) (hi : s.initializer = .building n) :
    step s = .next (initializerStep s) := by
  have hdefault : defaultAgent s = .initializer := by simp only [defaultAgent, hi]
  exact step_initializer (by rw [pickAgent_nil s hs, hdefault])

theorem initializerStep_afterIterations {s : State} {n k : Nat} (hs : s.schedule = []) (hlt : n + k < 16384) :
    initializerStep (s.afterIterations n k) = s.afterIterations n (k + 1) := by
  rw [initializerStep_iteration (afterIterations_initializer s n k) hlt, State.afterIterations, State.afterIterations,
    hs, List.drop_nil, List.drop_nil, List.range'_1_concat, writeCells_concat]
  rfl

theorem runSteps_iterations_default {s : State} {n k : Nat} (hs : s.schedule = []) (hi : s.initializer = .building n)
    (hk : n + k ≤ 16384) : runSteps k s = .next (s.afterIterations n k) := by
  induction k with
  | zero => rw [afterIterations_zero hi, runSteps]
  | succ k ih =>
    rw [runSteps_succ (ih (by omega)), step_initializer_default (by simp [hs]) (afterIterations_initializer s n k),
      initializerStep_afterIterations hs hk]

@[simp] theorem afterIterations_requesters (s : State) (n k : Nat) :
    (s.afterIterations n k).requesters = s.requesters := by
  simp [State.afterIterations]

/-- CONSTRUCT publishes after a step for each iteration left and one more, and touches neither the requesters nor the
observation. -/
theorem exists_published_default {s : State} {n : Nat} (hs : s.schedule = []) (hi : s.initializer = .building n)
    (hn : n ≤ 16384) : ∃ t, runSteps (16384 - n + 1) s = .next t ∧ t.readReady = true ∧ t.schedule = [] ∧
      t.requesters = s.requesters ∧ t.observed = s.observed := by
  have hlast := afterIterations_initializer s n (16384 - n)
  refine ⟨publish (s.afterIterations n (16384 - n)), ?_, readReady_publish _, by simp [hs], by simp, by simp⟩
  rw [runSteps_succ (runSteps_iterations_default hs hi (by omega)), step_initializer_default (by simp [hs]) hlast,
    initializerStep_publication hlast (by omega)]

/-! ### The obligation -/

/-- Settles O33: CONSTRUCT publishes after 16385 - n steps and leaves the requesters as they were, so the next step serves
the lowest-numbered one that waits. -/
theorem heldRequestIsAnsweredAfterPublication : Obligations.HeldRequestIsAnsweredAfterPublication := by
  intro s n r q w h hi hs hq hw hlow
  obtain ⟨-, hn, -⟩ := (phase_building_iff hi).mp h.phase
  obtain ⟨u, hrun, hready, hidle, hreq, hobs⟩ := exists_published_default hs hi hn
  rw [← hreq] at hq hlow
  have hu : u.Inv := inv_runSteps _ h hrun
  have hp : pickAgent u = (.service r, u) := by
    rw [pickAgent_nil u hidle, defaultAgent_eq_service (hu.phase.not_building_of_ready hready) hq hw hlow]
  have hserve := step_answers hu hready hp hq hw
  refine ⟨_, ?_, congrArg (· ++ [⟨r, w, expectedResponse w⟩]) hobs, _,
    requesters_afterResponse_same (s := { u with serving := r }) w (expectedResponse w) hq, rfl⟩
  rw [show 16386 - n = 16384 - n + 1 + 1 by omega, runSteps_succ hrun, hserve]

end Sys2Proof.Machine

/-! PROOFS. The initialisation modes are indistinguishable (10_state.md rules R21, R27): two published machines with one
interface simulate each other, step by step, as long as reset is not asserted. -/

namespace Sys2Proof.Machine

/-! ### What a requester can see of a machine -/

/-- The interface of a machine: the port, the requesters, the one served, who moves next, and the observation. -/
def State.interface (s : State) : Nat × List Requester × Nat × List Agent × List Observation :=
  (s.params.pw, s.requesters, s.serving, s.schedule, s.observed)

theorem State.SameInterface.interface_eq {s t : State} (h : s.SameInterface t) : t.interface = s.interface := by
  rw [State.interface, h.pw, h.requesters, h.serving, h.schedule, h.observed, State.interface]

theorem interface_afterResponse {s t : State} (h : t.interface = s.interface) (r x : Nat) (resp : Response) :
    (State.afterResponse { t with serving := r } x resp).interface =
      (State.afterResponse { s with serving := r } x resp).interface := by
  simp only [State.interface, Prod.mk.injEq] at h
  obtain ⟨hpw, hreq, -, hsched, hobs⟩ := h
  simp only [State.interface, State.afterResponse, hpw, hreq, hsched, hobs]

theorem releaseReset_interface (s : State) : (releaseReset s).interface = s.interface := by simp [State.interface]

/-- Steps that keep both machines published and give them one interface keep the relation. -/
theorem State.SameInterface.of_step {s t s' t' : State} (h : s.SameInterface t) (hs : step s = .next s')
    (ht : step t = .next t') (hsnot : (pickAgent s).1 ≠ .assertReset) (htnot : (pickAgent t).1 ≠ .assertReset)
    (heq : t'.interface = s'.interface) : s'.SameInterface t' := by
  have hready {u u' : State} (hu : u.Inv) (hr : u.readReady = true) (hstep : step u = .next u')
      (hnot : (pickAgent u).1 ≠ .assertReset) : u'.readReady = true := by
    obtain ⟨-, hsame⟩ := (step_sameTableAndReady_or_ends_epoch hu hr hstep).resolve_right fun hends => hnot hends.1
    exact hsame.trans hr
  simp only [State.interface, Prod.mk.injEq] at heq
  obtain ⟨hpw, hreq, hserving, hsched, hobs⟩ := heq
  exact ⟨inv_step h.left hs, inv_step h.right ht, hready h.left h.readyLeft hs hsnot,
    hready h.right h.readyRight ht htnot, hpw, hreq, hserving, hsched, hobs⟩

/-- Who moves next is no part of what the relation says of either machine. -/
theorem State.SameInterface.with_schedule {s t : State} (h : s.SameInterface t) (rest : List Agent) :
    State.SameInterface { s with schedule := rest } { t with schedule := rest } :=
  ⟨h.left.with_turn s.serving rest, h.right.with_turn t.serving rest, h.readyLeft, h.readyRight, h.pw, h.requesters,
    h.serving, rfl, h.observed⟩

/-! ### Both machines give the turn to the same agent -/

theorem defaultAmongRequesters_ne_assertReset (l : List Requester) : defaultAmongRequesters l ≠ .assertReset := by
  unfold defaultAmongRequesters
  split
  next => exact Agent.noConfusion
  next => split <;> exact Agent.noConfusion

theorem State.SameInterface.exists_pickAgent {s t : State} (h : s.SameInterface t)
    (hno : Agent.assertReset ∉ s.schedule) :
    ∃ agent rest, agent ≠ .assertReset ∧ Agent.assertReset ∉ rest ∧
      pickAgent s = (agent, { s with schedule := rest }) ∧ pickAgent t = (agent, { t with schedule := rest }) := by
  cases hs : s.schedule with
  | cons agent rest =>
    rw [hs, List.mem_cons, not_or] at hno
    exact ⟨agent, rest, Ne.symm hno.1, hno.2, pickAgent_cons s _ _ hs, pickAgent_cons t _ _ (h.schedule.trans hs)⟩
  | nil =>
    have ht : t.schedule = [] := h.schedule.trans hs
    refine ⟨defaultAmongRequesters s.requesters, [], defaultAmongRequesters_ne_assertReset _, List.not_mem_nil, ?_, ?_⟩
    · rw [pickAgent_nil s hs, defaultAgent_of_not_building (h.left.phase.not_building_of_ready h.readyLeft), ← hs]
    · rw [pickAgent_nil t ht, defaultAgent_of_not_building (h.right.phase.not_building_of_ready h.readyRight),
        ← ht, ← h.requesters]

/-! ### One turn of each agent -/

/-- What a turn of one machine, from `s` to `s'`, has to find in the other: an outcome with the interface of `s'`. The
schedule stays what it is once the turn is taken off. -/
def Matches (s s' : State) (o : Host.Outcome State Fault Refusal) : Prop :=
  ∃ t', o = .next t' ∧ t'.interface = s'.interface ∧ s'.schedule = s.schedule

theorem State.SameInterface.requesterStep {s t s' : State} (h : s.SameInterface t) {r : Nat}
    (hs : requesterStep r s = .next s') : Matches s s' (requesterStep r t) := by
  by_cases hcan : ∃ q c rest, CanPresent s.requesters r q c rest
  · obtain ⟨q, c, rest, hcan⟩ := hcan
    cases hw : toOperand s.params.pw c.value with
    | none => simp [requesterStep_of_unpresentable hcan hw] at hs
    | some w =>
      obtain rfl := Host.Outcome.next.inj ((requesterStep_of_presentable hcan hw).symm.trans hs)
      rw [← h.requesters] at hcan
      rw [← h.pw] at hw
      refine ⟨_, requesterStep_of_presentable hcan hw, ?_, rfl⟩
      simp only [State.interface, h.pw, h.requesters, h.serving, h.schedule, h.observed]
  · have hnot (q : Requester) (c : Call) (rest : List Call) : ¬ CanPresent s.requesters r q c rest :=
      fun hc => hcan ⟨q, c, rest, hc⟩
    obtain rfl := Host.Outcome.next.inj ((requesterStep_of_not_canPresent hnot).symm.trans hs)
    rw [← h.requesters] at hnot
    exact ⟨t, requesterStep_of_not_canPresent hnot, h.interface_eq, rfl⟩

theorem State.SameInterface.step_service {s t u v s' : State} (h : u.SameInterface v) {r : Nat}
    (hps : pickAgent s = (.service r, u)) (hpt : pickAgent t = (.service r, v)) (hs : step s = .next s') :
    Matches u s' (step t) := by
  by_cases hwait : ∃ q w, u.requesters[r]? = some q ∧ q.waiting = some w
  · obtain ⟨q, w, hq, hw⟩ := hwait
    obtain rfl := Host.Outcome.next.inj ((step_answers h.left h.readyLeft hps hq hw).symm.trans hs)
    rw [← h.requesters] at hq
    exact ⟨_, step_answers h.right h.readyRight hpt hq hw, interface_afterResponse h.interface_eq r w _, rfl⟩
  · have hnone (q : Requester) (hq : u.requesters[r]? = some q) : q.waiting = none :=
      Option.eq_none_iff_forall_ne_some.mpr fun w hw => hwait ⟨q, w, hq, hw⟩
    obtain rfl := Host.Outcome.next.inj ((step_of_nothing_waiting hps hnone).symm.trans hs)
    rw [← h.requesters] at hnone
    exact ⟨v, step_of_nothing_waiting hpt hnone, h.interface_eq, rfl⟩

/-- One step of the first machine is matched by one of the second. -/
theorem State.SameInterface.step {s t s' : State} (h : s.SameInterface t) (hno : Agent.assertReset ∉ s.schedule)
    (hs : step s = .next s') :
    ∃ t', Machine.step t = .next t' ∧ s'.SameInterface t' ∧ Agent.assertReset ∉ s'.schedule := by
  obtain ⟨agent, rest, hne, hrest, hps, hpt⟩ := h.exists_pickAgent hno
  have hturn := h.with_schedule rest
  have hmatch : Matches { s with schedule := rest } s' (Machine.step t) := by
    cases agent with
    | service r => exact hturn.step_service hps hpt hs
    | initializer =>
      obtain rfl := Host.Outcome.next.inj ((step_initializer hps).symm.trans hs)
      rw [initializerStep_of_ready hturn.left.phase h.readyLeft]
      refine ⟨_, step_initializer hpt, ?_, rfl⟩
      rw [initializerStep_of_ready hturn.right.phase h.readyRight]
      exact hturn.interface_eq
    | requester r =>
      rw [step_requester hps] at hs
      rw [step_requester hpt]
      exact hturn.requesterStep hs
    | assertReset => exact absurd rfl hne
    | releaseReset =>
      obtain rfl := Host.Outcome.next.inj ((step_releaseReset hps).symm.trans hs)
      refine ⟨_, step_releaseReset hpt, ?_, releaseReset_schedule _⟩
      rw [releaseReset_interface, releaseReset_interface]
      exact hturn.interface_eq
    | idle =>
      obtain rfl := Host.Outcome.next.inj ((step_idle hps).symm.trans hs)
      exact ⟨_, step_idle hpt, hturn.interface_eq, rfl⟩
  obtain ⟨t', ht, heq, hsched⟩ := hmatch
  exact ⟨t', ht, h.of_step hs ht (by rwa [hps]) (by rwa [hpt]) heq, hsched ▸ hrest⟩

/-! ### The obligation -/

/-- Settles O31: the simulation carries a run of the first machine over to the second, step by step. -/
theorem initialisationModesAreIndistinguishable : Obligations.InitialisationModesAreIndistinguishable := by
  intro k
  induction k with
  | zero =>
    intro s t s' h _ hrun
    obtain rfl := Host.Outcome.next.inj hrun
    exact ⟨t, rfl, h.observed, h.requesters⟩
  | succ k ih =>
    intro s t s' h hno hrun
    rw [runSteps] at hrun
    split at hrun
    next u hu =>
      obtain ⟨v, hv, hsame, hno'⟩ := h.step hno hu
      simpa only [runSteps, hv] using ih u v s' hsame hno' hrun
    next => cases hrun
    next => cases hrun

end Sys2Proof.Machine
